-- ==== Sys2Proof/Word.lean ====
section
/-! DEFINITION. The widths of the machine: register words, halfwords, bytes and SIMD&FP doublewords. -/

namespace Sys2Proof

/-- A 32-bit word: an A32 instruction, the program counter, a control register (R5, R6, R27). -/
abbrev Word := BitVec 32

/-- A 16-bit halfword: half of a T32 instruction (R6). -/
abbrev Halfword := BitVec 16

/-- One byte of memory (R53). -/
abbrev Byte := BitVec 8

/-- A 64-bit SIMD&FP register (R20). -/
abbrev DWord := BitVec 64

/-- The number of a 64-bit register, `UInt(D:Vd)` (R20, R86). -/
abbrev DReg := BitVec 5

/-- The number of a 32-bit register, `UInt(Vd:D)` (R21, R86). -/
abbrev SReg := BitVec 5

/-- The number of a 128-bit register, half of `UInt(D:Vd)` (R22, R25). -/
abbrev QReg := BitVec 4

end Sys2Proof
end

