-- ==== Sys2Proof/Syntax.lean ====
section
/-! DEFINITION. The syntax: one constructor of `Instr` for each of the forty rows of spec/opcode_table.json,
the condition codes, the should-be-zero bits, and the reasons a word is not this instruction. -/

namespace Sys2Proof

/-- The two instruction sets (R1, R31). -/
inductive ISet where
  | a32
  | t32
deriving DecidableEq, Repr, Inhabited

/-- The sixteen values of a 4-bit condition (R102). `nv` is `1111`: it always holds, has no suffix, and is never the
`cond` of A2 (R72). -/
inductive Cond where
  | eq | ne | cs | cc | mi | pl | vs | vc | hi | ls | ge | lt | gt | le | al | nv
deriving DecidableEq, Repr, Inhabited

/-- The two `(0)` bits of A2 and T2 (R68, R69, R91). -/
structure SbzBits where
  /-- Bit 7 of the word (of `hw2` in T2). -/
  bit7 : Bool
  /-- Bit 5 of the word (of `hw2` in T2). -/
  bit5 : Bool
deriving DecidableEq, Repr, Inhabited

/-- Both should-be-zero bits clear: the canonical encoding (R91). -/
def SbzBits.clear : SbzBits := { bit7 := false, bit5 := false }

/-- Why a word is not VMOV (immediate) (R11 `NotThisInstruction`, R88, R92, R93). -/
inductive NotThis where
  /-- `SEE "VORR (immediate)"`: `op == '0' && cmode<0> == '1' && cmode<3:2> != '11'` (R88, U8). -/
  | seeVorrImmediate
  /-- `SEE "Related encodings"`: `op == '1' && cmode != '1110'` (R88, U9). -/
  | seeRelatedEncodings
  /-- The pattern of A2 with `cond == '1111'` (R72, R92, U10). -/
  | condNever
  /-- A T32 instruction of 16 bits (R93). -/
  | shortT32
  /-- Any other word that matches none of the ten patterns (R11, U11). -/
  | noPattern
  /-- Fewer bytes than an instruction has: no word to match. Not raised by a step, which fetches them all. -/
  | tooFewBytes
deriving DecidableEq, Repr, Inhabited

/-- VMOV (immediate), one constructor for each row of the opcode table. `D` and `Q` at the end of a name are the 64-bit
(`Q == 0`) and 128-bit (`Q == 1`) variants; `imm8` is `i:imm3:imm4` (R82) or `imm4H:imm4L` (R84); `cmode21`, `cmode1`,
`cmode0`, `cmode10` are the bits of `cmode` that the pattern leaves free. -/
inductive Instr where
  -- A32, Advanced SIMD: A1 (R71), A3 (R73), A4 (R74), A5 (R75)
  | vmovI32A1D (cmode21 : BitVec 2) (d : DReg) (imm8 : BitVec 8)
  | vmovI32A1Q (cmode21 : BitVec 2) (q : QReg) (imm8 : BitVec 8)
  | vmovI16A3D (cmode1 : BitVec 1) (d : DReg) (imm8 : BitVec 8)
  | vmovI16A3Q (cmode1 : BitVec 1) (q : QReg) (imm8 : BitVec 8)
  | vmovI32A4D (cmode0 : BitVec 1) (d : DReg) (imm8 : BitVec 8)
  | vmovI32A4Q (cmode0 : BitVec 1) (q : QReg) (imm8 : BitVec 8)
  | vmovI8A4D (d : DReg) (imm8 : BitVec 8)
  | vmovI8A4Q (q : QReg) (imm8 : BitVec 8)
  | vmovF32A4D (d : DReg) (imm8 : BitVec 8)
  | vmovF32A4Q (q : QReg) (imm8 : BitVec 8)
  | vmovI64A5D (d : DReg) (imm8 : BitVec 8)
  | vmovI64A5Q (q : QReg) (imm8 : BitVec 8)
  -- A32, Advanced SIMD, `Q == 1` and `Vd<0> == 1` (R89); `h` is `D:Vd<3:1>`
  | undefinedA1 (cmode21 : BitVec 2) (h : BitVec 4) (imm8 : BitVec 8)
  | undefinedA3 (cmode1 : BitVec 1) (h : BitVec 4) (imm8 : BitVec 8)
  | undefinedA4 (cmode10 : BitVec 2) (h : BitVec 4) (imm8 : BitVec 8)
  | undefinedA5 (h : BitVec 4) (imm8 : BitVec 8)
  -- A32, floating-point: A2 (R72), with `size == '00'` (R89)
  | vmovF16A2 (cond : Cond) (d : SReg) (imm8 : BitVec 8) (sbz : SbzBits)
  | vmovF32A2 (cond : Cond) (d : SReg) (imm8 : BitVec 8) (sbz : SbzBits)
  | vmovF64A2 (cond : Cond) (d : DReg) (imm8 : BitVec 8) (sbz : SbzBits)
  | undefinedA2 (cond : Cond) (dvd : BitVec 5) (imm8 : BitVec 8) (sbz : SbzBits)
  -- T32, Advanced SIMD: T1 (R76), T3 (R78), T4 (R79), T5 (R80)
  | vmovI32T1D (cmode21 : BitVec 2) (d : DReg) (imm8 : BitVec 8)
  | vmovI32T1Q (cmode21 : BitVec 2) (q : QReg) (imm8 : BitVec 8)
  | vmovI16T3D (cmode1 : BitVec 1) (d : DReg) (imm8 : BitVec 8)
  | vmovI16T3Q (cmode1 : BitVec 1) (q : QReg) (imm8 : BitVec 8)
  | vmovI32T4D (cmode0 : BitVec 1) (d : DReg) (imm8 : BitVec 8)
  | vmovI32T4Q (cmode0 : BitVec 1) (q : QReg) (imm8 : BitVec 8)
  | vmovI8T4D (d : DReg) (imm8 : BitVec 8)
  | vmovI8T4Q (q : QReg) (imm8 : BitVec 8)
  | vmovF32T4D (d : DReg) (imm8 : BitVec 8)
  | vmovF32T4Q (q : QReg) (imm8 : BitVec 8)
  | vmovI64T5D (d : DReg) (imm8 : BitVec 8)
  | vmovI64T5Q (q : QReg) (imm8 : BitVec 8)
  -- T32, Advanced SIMD, `Q == 1` and `Vd<0> == 1` (R89)
  | undefinedT1 (cmode21 : BitVec 2) (h : BitVec 4) (imm8 : BitVec 8)
  | undefinedT3 (cmode1 : BitVec 1) (h : BitVec 4) (imm8 : BitVec 8)
  | undefinedT4 (cmode10 : BitVec 2) (h : BitVec 4) (imm8 : BitVec 8)
  | undefinedT5 (h : BitVec 4) (imm8 : BitVec 8)
  -- T32, floating-point: T2 (R77), with `size == '00'` (R89)
  | vmovF16T2 (d : SReg) (imm8 : BitVec 8) (sbz : SbzBits)
  | vmovF32T2 (d : SReg) (imm8 : BitVec 8) (sbz : SbzBits)
  | vmovF64T2 (d : DReg) (imm8 : BitVec 8) (sbz : SbzBits)
  | undefinedT2 (dvd : BitVec 5) (imm8 : BitVec 8) (sbz : SbzBits)
deriving DecidableEq, Repr

end Sys2Proof
end

