-- ==== Sys2Proof/WellFormed.lean ====
section
/-! DEFINITION. The checks on an instruction: what the encoder may be given. Registers, immediates and free `cmode` bits
have the width of their field, so only the condition of A2 and the two should-be-zero bits of A2 and T2 need a check. -/

namespace Sys2Proof

/-- The two `(0)` bits are zero (R91). -/
def SbzBits.isClear (z : SbzBits) : Bool := !z.bit7 && !z.bit5

/-- The `cond` of A2 is not `1111` (R72). -/
def Cond.isA2Cond (c : Cond) : Bool := c != .nv

/-- An instruction that the canonical encoding can spell: `cond` is not `1111` (R72, R92) and the `(0)` bits are zero (R91). -/
def Instr.wellFormed : Instr → Bool
  | .vmovF16A2 c _ _ z | .vmovF32A2 c _ _ z | .vmovF64A2 c _ _ z | .undefinedA2 c _ _ z => c.isA2Cond && z.isClear
  | .vmovF16T2 _ _ z | .vmovF32T2 _ _ z | .vmovF64T2 _ _ z | .undefinedT2 _ _ z => z.isClear
  | .vmovI32A1D _ _ _ | .vmovI32A1Q _ _ _ | .vmovI16A3D _ _ _ | .vmovI16A3Q _ _ _ => true
  | .vmovI32A4D _ _ _ | .vmovI32A4Q _ _ _ | .vmovI8A4D _ _ | .vmovI8A4Q _ _ => true
  | .vmovF32A4D _ _ | .vmovF32A4Q _ _ | .vmovI64A5D _ _ | .vmovI64A5Q _ _ => true
  | .undefinedA1 _ _ _ | .undefinedA3 _ _ _ | .undefinedA4 _ _ _ | .undefinedA5 _ _ => true
  | .vmovI32T1D _ _ _ | .vmovI32T1Q _ _ _ | .vmovI16T3D _ _ _ | .vmovI16T3Q _ _ _ => true
  | .vmovI32T4D _ _ _ | .vmovI32T4Q _ _ _ | .vmovI8T4D _ _ | .vmovI8T4Q _ _ => true
  | .vmovF32T4D _ _ | .vmovF32T4Q _ _ | .vmovI64T5D _ _ | .vmovI64T5Q _ _ => true
  | .undefinedT1 _ _ _ | .undefinedT3 _ _ _ | .undefinedT4 _ _ _ | .undefinedT5 _ _ => true

end Sys2Proof
end

