-- ==== Sys2Proof/Decode.lean ====
section
/-! DEFINITION. The decoder, total on any bytes and rejecting by name, and after it the encoder, both from the formats
of 30_encoding.md (R66 to R69) and the ten patterns (R71 to R80). -/

namespace Sys2Proof

/-- The bits of a condition (R102). -/
def Cond.toBits : Cond → BitVec 4
  | .eq => 0b0000#4
  | .ne => 0b0001#4
  | .cs => 0b0010#4
  | .cc => 0b0011#4
  | .mi => 0b0100#4
  | .pl => 0b0101#4
  | .vs => 0b0110#4
  | .vc => 0b0111#4
  | .hi => 0b1000#4
  | .ls => 0b1001#4
  | .ge => 0b1010#4
  | .lt => 0b1011#4
  | .gt => 0b1100#4
  | .le => 0b1101#4
  | .al => 0b1110#4
  | .nv => 0b1111#4

/-- The condition that four bits name (R102). -/
def Cond.ofBits (b : BitVec 4) : Cond :=
  match b.toNat with
  | 0 => .eq
  | 1 => .ne
  | 2 => .cs
  | 3 => .cc
  | 4 => .mi
  | 5 => .pl
  | 6 => .vs
  | 7 => .vc
  | 8 => .hi
  | 9 => .ls
  | 10 => .ge
  | 11 => .lt
  | 12 => .gt
  | 13 => .le
  | 14 => .al
  | _ => .nv

/-- The data-type kind of an Advanced SIMD word with the bits of `cmode` its pattern leaves free (R71, R73 to R75). -/
inductive SimdKind where
  /-- A1, T1: `cmode == 0xx0`, `op == 0`. -/
  | i32 (cmode21 : BitVec 2)
  /-- A3, T3: `cmode == 10x0`, `op == 0`. -/
  | i16 (cmode1 : BitVec 1)
  /-- A4, T4: `cmode == 110x`, `op == 0`. -/
  | i32Ones (cmode0 : BitVec 1)
  /-- A4, T4: `cmode == 1110`, `op == 0`. -/
  | i8
  /-- A4, T4: `cmode == 1111`, `op == 0`. -/
  | f32
  /-- A5, T5: `cmode == 1110`, `op == 1`. -/
  | i64
deriving DecidableEq, Repr

/-- The destination of an Advanced SIMD word, by `Q` and `Vd<0>` (R86, R89). -/
inductive SimdDest where
  /-- `Q == 0`: the register `D:Vd`. -/
  | d (n : DReg)
  /-- `Q == 1`, `Vd<0> == 0`: the register `D:Vd<3:1>`. -/
  | q (n : QReg)
  /-- `Q == 1`, `Vd<0> == 1`: UNDEFINED; `h` is `D:Vd<3:1>`. -/
  | undef (h : BitVec 4)
deriving DecidableEq, Repr

/-- The decode text shared by the eight Advanced SIMD encodings, its two `SEE` tests first (R88, R120), and then the five
patterns of `cmode` and `op` (R71, R73 to R75). -/
def simdKind (op : BitVec 1) (cmode : BitVec 4) : Except NotThis SimdKind :=
  if op = 0#1 ∧ cmode.extractLsb' 0 1 = 1#1 ∧ cmode.extractLsb' 2 2 ≠ 0b11#2 then .error .seeVorrImmediate
  else if op = 1#1 ∧ cmode ≠ 0b1110#4 then .error .seeRelatedEncodings
  else if op = 1#1 then .ok .i64
  else if cmode.extractLsb' 3 1 = 0#1 then .ok (.i32 (cmode.extractLsb' 1 2))
  else if cmode.extractLsb' 2 2 = 0b10#2 then .ok (.i16 (cmode.extractLsb' 1 1))
  else if cmode.extractLsb' 1 3 = 0b110#3 then .ok (.i32Ones (cmode.extractLsb' 0 1))
  else if cmode = 0b1110#4 then .ok .i8
  else .ok .f32

/-- The destination that `Q`, `D` and `Vd` name (R86, R89). -/
def simdDest (q : BitVec 1) (dvd : BitVec 5) : SimdDest :=
  if q = 0#1 then .d dvd
  else if dvd.extractLsb' 0 1 = 0#1 then .q (dvd.extractLsb' 1 4)
  else .undef (dvd.extractLsb' 1 4)

/-- The A32 row of a kind and a destination. -/
def simdA32 (imm8 : BitVec 8) : SimdKind → SimdDest → Instr
  | .i32 c, .d n => .vmovI32A1D c n imm8
  | .i32 c, .q n => .vmovI32A1Q c n imm8
  | .i32 c, .undef h => .undefinedA1 c h imm8
  | .i16 c, .d n => .vmovI16A3D c n imm8
  | .i16 c, .q n => .vmovI16A3Q c n imm8
  | .i16 c, .undef h => .undefinedA3 c h imm8
  | .i32Ones c, .d n => .vmovI32A4D c n imm8
  | .i32Ones c, .q n => .vmovI32A4Q c n imm8
  | .i32Ones c, .undef h => .undefinedA4 (0#1 ++ c) h imm8
  | .i8, .d n => .vmovI8A4D n imm8
  | .i8, .q n => .vmovI8A4Q n imm8
  | .i8, .undef h => .undefinedA4 0b10#2 h imm8
  | .f32, .d n => .vmovF32A4D n imm8
  | .f32, .q n => .vmovF32A4Q n imm8
  | .f32, .undef h => .undefinedA4 0b11#2 h imm8
  | .i64, .d n => .vmovI64A5D n imm8
  | .i64, .q n => .vmovI64A5Q n imm8
  | .i64, .undef h => .undefinedA5 h imm8

/-- The T32 row of a kind and a destination. -/
def simdT32 (imm8 : BitVec 8) : SimdKind → SimdDest → Instr
  | .i32 c, .d n => .vmovI32T1D c n imm8
  | .i32 c, .q n => .vmovI32T1Q c n imm8
  | .i32 c, .undef h => .undefinedT1 c h imm8
  | .i16 c, .d n => .vmovI16T3D c n imm8
  | .i16 c, .q n => .vmovI16T3Q c n imm8
  | .i16 c, .undef h => .undefinedT3 c h imm8
  | .i32Ones c, .d n => .vmovI32T4D c n imm8
  | .i32Ones c, .q n => .vmovI32T4Q c n imm8
  | .i32Ones c, .undef h => .undefinedT4 (0#1 ++ c) h imm8
  | .i8, .d n => .vmovI8T4D n imm8
  | .i8, .q n => .vmovI8T4Q n imm8
  | .i8, .undef h => .undefinedT4 0b10#2 h imm8
  | .f32, .d n => .vmovF32T4D n imm8
  | .f32, .q n => .vmovF32T4Q n imm8
  | .f32, .undef h => .undefinedT4 0b11#2 h imm8
  | .i64, .d n => .vmovI64T5D n imm8
  | .i64, .q n => .vmovI64T5Q n imm8
  | .i64, .undef h => .undefinedT5 h imm8

/-- `D:Vd`, bits 22 and 15:12 of the word (R66 to R69). -/
def dvdField (w : Word) : BitVec 5 := w.extractLsb' 22 1 ++ w.extractLsb' 12 4

/-- `Vd:D`, the S-register number (R86). -/
def vddField (w : Word) : BitVec 5 := w.extractLsb' 12 4 ++ w.extractLsb' 22 1

/-- `i:imm3:imm4`, with `i` at bit 24 in A32 and bit 28 in T32 (R66, R67, R82). -/
def simdImm8 (i : BitVec 1) (w : Word) : BitVec 8 := i ++ w.extractLsb' 16 3 ++ w.extractLsb' 0 4

/-- `imm4H:imm4L` (R68, R69, R84). -/
def fpImm8 (w : Word) : BitVec 8 := w.extractLsb' 16 4 ++ w.extractLsb' 0 4

/-- The two `(0)` bits (R91). -/
def sbzField (w : Word) : SbzBits := { bit7 := w.getLsbD 7, bit5 := w.getLsbD 5 }

/-- The fixed bits of the formats `VI-A` and `VI-T` in bits 23:0: 23, 21:19, 7 and 4 (R66, R67). -/
def isSimdLow (w : Word) : Bool :=
  w.extractLsb' 23 1 == 1#1 && w.extractLsb' 19 3 == 0#3 && w.extractLsb' 7 1 == 0#1 && w.extractLsb' 4 1 == 1#1

/-- The fixed bits of the formats `FI-A` and `FI-T` in bits 27:0: 27:23, 21:20, 11:10, 6 and 4 (R68, R69). -/
def isFpLow (w : Word) : Bool :=
  w.extractLsb' 23 5 == 0b11101#5 && w.extractLsb' 20 2 == 0b11#2 && w.extractLsb' 10 2 == 0b10#2 &&
    w.extractLsb' 6 1 == 0#1 && w.extractLsb' 4 1 == 0#1

/-- The row of A2 that `size` selects (R72, R86, R89). -/
def fpA32 (w : Word) : Instr :=
  let cond := Cond.ofBits (w.extractLsb' 28 4)
  match (w.extractLsb' 8 2).toNat with
  | 0 => .undefinedA2 cond (dvdField w) (fpImm8 w) (sbzField w)
  | 1 => .vmovF16A2 cond (vddField w) (fpImm8 w) (sbzField w)
  | 2 => .vmovF32A2 cond (vddField w) (fpImm8 w) (sbzField w)
  | _ => .vmovF64A2 cond (dvdField w) (fpImm8 w) (sbzField w)

/-- The row of T2 that `size` selects (R77, R86, R89). -/
def fpT32 (w : Word) : Instr :=
  match (w.extractLsb' 8 2).toNat with
  | 0 => .undefinedT2 (dvdField w) (fpImm8 w) (sbzField w)
  | 1 => .vmovF16T2 (vddField w) (fpImm8 w) (sbzField w)
  | 2 => .vmovF32T2 (vddField w) (fpImm8 w) (sbzField w)
  | _ => .vmovF64T2 (dvdField w) (fpImm8 w) (sbzField w)

/-- An A32 word, against A1 to A5 (R71 to R75, R92). -/
def decodeA32 (w : Word) : Except NotThis Instr :=
  if w.extractLsb' 25 7 = 0b1111001#7 ∧ isSimdLow w = true then
    (simdKind (w.extractLsb' 5 1) (w.extractLsb' 8 4)).map fun k =>
      simdA32 (simdImm8 (w.extractLsb' 24 1) w) k (simdDest (w.extractLsb' 6 1) (dvdField w))
  else if isFpLow w = true then
    if w.extractLsb' 28 4 = 0b1111#4 then .error .condNever else .ok (fpA32 w)
  else .error .noPattern

/-- A T32 pair `tw = hw1:hw2`, against T1 to T5 (R6, R76 to R80). -/
def decodeT32 (tw : Word) : Except NotThis Instr :=
  if tw.extractLsb' 29 3 = 0b111#3 ∧ tw.extractLsb' 24 4 = 0b1111#4 ∧ isSimdLow tw = true then
    (simdKind (tw.extractLsb' 5 1) (tw.extractLsb' 8 4)).map fun k =>
      simdT32 (simdImm8 (tw.extractLsb' 28 1) tw) k (simdDest (tw.extractLsb' 6 1) (dvdField tw))
  else if tw.extractLsb' 28 4 = 0b1110#4 ∧ isFpLow tw = true then .ok (fpT32 tw)
  else .error .noPattern

/-- A T32 instruction is 32 bits long when `hw1[15:11]` is `11101`, `11110` or `11111` (R93). -/
def isLongT32 (hw1 : Halfword) : Bool :=
  hw1.extractLsb' 11 5 == 0b11101#5 || hw1.extractLsb' 11 5 == 0b11110#5 || hw1.extractLsb' 11 5 == 0b11111#5

/-- A halfword from its two bytes, the byte at the lower address first (R53). -/
def halfOfBytes (b0 b1 : Byte) : Halfword := b1 ++ b0

/-- An A32 word from its four bytes, the byte at the lowest address first (R53). -/
def wordOfBytes (b0 b1 b2 b3 : Byte) : Word := b3 ++ b2 ++ b1 ++ b0

/-- The instruction at the head of a list of bytes, and the bytes after it (R51 to R53, R65). -/
def decode : ISet → List Byte → Except NotThis (Instr × List Byte)
  | .a32, b0 :: b1 :: b2 :: b3 :: rest => (decodeA32 (wordOfBytes b0 b1 b2 b3)).map fun i => (i, rest)
  | .a32, _ => .error .tooFewBytes
  | .t32, b0 :: b1 :: rest =>
    if isLongT32 (halfOfBytes b0 b1) = true then
      match rest with
      | b2 :: b3 :: rest' => (decodeT32 (halfOfBytes b0 b1 ++ halfOfBytes b2 b3)).map fun i => (i, rest')
      | _ => .error .tooFewBytes
    else .error .shortT32
  | .t32, _ => .error .tooFewBytes

/-! The encoder. -/

/-- The instruction set whose encoding an instruction is (R1). -/
def Instr.iset : Instr → ISet
  | .vmovI32A1D _ _ _ | .vmovI32A1Q _ _ _ | .vmovI16A3D _ _ _ | .vmovI16A3Q _ _ _ => .a32
  | .vmovI32A4D _ _ _ | .vmovI32A4Q _ _ _ | .vmovI8A4D _ _ | .vmovI8A4Q _ _ => .a32
  | .vmovF32A4D _ _ | .vmovF32A4Q _ _ | .vmovI64A5D _ _ | .vmovI64A5Q _ _ => .a32
  | .undefinedA1 _ _ _ | .undefinedA3 _ _ _ | .undefinedA4 _ _ _ | .undefinedA5 _ _ => .a32
  | .vmovF16A2 _ _ _ _ | .vmovF32A2 _ _ _ _ | .vmovF64A2 _ _ _ _ | .undefinedA2 _ _ _ _ => .a32
  | .vmovI32T1D _ _ _ | .vmovI32T1Q _ _ _ | .vmovI16T3D _ _ _ | .vmovI16T3Q _ _ _ => .t32
  | .vmovI32T4D _ _ _ | .vmovI32T4Q _ _ _ | .vmovI8T4D _ _ | .vmovI8T4Q _ _ => .t32
  | .vmovF32T4D _ _ | .vmovF32T4Q _ _ | .vmovI64T5D _ _ | .vmovI64T5Q _ _ => .t32
  | .undefinedT1 _ _ _ | .undefinedT3 _ _ _ | .undefinedT4 _ _ _ | .undefinedT5 _ _ => .t32
  | .vmovF16T2 _ _ _ | .vmovF32T2 _ _ _ | .vmovF64T2 _ _ _ | .undefinedT2 _ _ _ => .t32

/-- Bits 23:0 of the formats `VI-A` and `VI-T` (R66, R67). -/
def simdLowBits (cmode : BitVec 4) (q op : BitVec 1) (dvd : BitVec 5) (imm8 : BitVec 8) : BitVec 24 :=
  1#1 ++ dvd.extractLsb' 4 1 ++ 0#3 ++ imm8.extractLsb' 4 3 ++ dvd.extractLsb' 0 4 ++ cmode ++ 0#1 ++ q ++ op ++ 1#1 ++
    imm8.extractLsb' 0 4

/-- A word of format `VI-A` (R66). -/
def simdWordA32 (cmode : BitVec 4) (q op : BitVec 1) (dvd : BitVec 5) (imm8 : BitVec 8) : Word :=
  0b1111001#7 ++ imm8.extractLsb' 7 1 ++ simdLowBits cmode q op dvd imm8

/-- A pair `hw1:hw2` of format `VI-T` (R67). -/
def simdWordT32 (cmode : BitVec 4) (q op : BitVec 1) (dvd : BitVec 5) (imm8 : BitVec 8) : Word :=
  0b111#3 ++ imm8.extractLsb' 7 1 ++ 0b1111#4 ++ simdLowBits cmode q op dvd imm8

/-- A word of format `FI-A`, or with `top = 1110` a pair of format `FI-T`; both `(0)` bits are emitted 0 (R68, R69, R91). -/
def fpWord (top : BitVec 4) (size : BitVec 2) (dbit : BitVec 1) (vd : BitVec 4) (imm8 : BitVec 8) : Word :=
  top ++ 0b11101#5 ++ dbit ++ 0b11#2 ++ imm8.extractLsb' 4 4 ++ vd ++ 0b10#2 ++ size ++ 0#4 ++ imm8.extractLsb' 0 4

/-- The 32 bits of an instruction: the A32 word, or the T32 pair with `hw1` in bits 31:16 (R6, R71 to R80). -/
def encodeWord : Instr → Word
  | .vmovI32A1D c d imm8 => simdWordA32 (0#1 ++ c ++ 0#1) 0#1 0#1 d imm8
  | .vmovI32A1Q c q imm8 => simdWordA32 (0#1 ++ c ++ 0#1) 1#1 0#1 (q ++ 0#1) imm8
  | .vmovI16A3D c d imm8 => simdWordA32 (0b10#2 ++ c ++ 0#1) 0#1 0#1 d imm8
  | .vmovI16A3Q c q imm8 => simdWordA32 (0b10#2 ++ c ++ 0#1) 1#1 0#1 (q ++ 0#1) imm8
  | .vmovI32A4D c d imm8 => simdWordA32 (0b110#3 ++ c) 0#1 0#1 d imm8
  | .vmovI32A4Q c q imm8 => simdWordA32 (0b110#3 ++ c) 1#1 0#1 (q ++ 0#1) imm8
  | .vmovI8A4D d imm8 => simdWordA32 0b1110#4 0#1 0#1 d imm8
  | .vmovI8A4Q q imm8 => simdWordA32 0b1110#4 1#1 0#1 (q ++ 0#1) imm8
  | .vmovF32A4D d imm8 => simdWordA32 0b1111#4 0#1 0#1 d imm8
  | .vmovF32A4Q q imm8 => simdWordA32 0b1111#4 1#1 0#1 (q ++ 0#1) imm8
  | .vmovI64A5D d imm8 => simdWordA32 0b1110#4 0#1 1#1 d imm8
  | .vmovI64A5Q q imm8 => simdWordA32 0b1110#4 1#1 1#1 (q ++ 0#1) imm8
  | .undefinedA1 c h imm8 => simdWordA32 (0#1 ++ c ++ 0#1) 1#1 0#1 (h ++ 1#1) imm8
  | .undefinedA3 c h imm8 => simdWordA32 (0b10#2 ++ c ++ 0#1) 1#1 0#1 (h ++ 1#1) imm8
  | .undefinedA4 c h imm8 => simdWordA32 (0b11#2 ++ c) 1#1 0#1 (h ++ 1#1) imm8
  | .undefinedA5 h imm8 => simdWordA32 0b1110#4 1#1 1#1 (h ++ 1#1) imm8
  | .vmovF16A2 cond d imm8 _ => fpWord cond.toBits 0b01#2 (d.extractLsb' 0 1) (d.extractLsb' 1 4) imm8
  | .vmovF32A2 cond d imm8 _ => fpWord cond.toBits 0b10#2 (d.extractLsb' 0 1) (d.extractLsb' 1 4) imm8
  | .vmovF64A2 cond d imm8 _ => fpWord cond.toBits 0b11#2 (d.extractLsb' 4 1) (d.extractLsb' 0 4) imm8
  | .undefinedA2 cond dvd imm8 _ => fpWord cond.toBits 0b00#2 (dvd.extractLsb' 4 1) (dvd.extractLsb' 0 4) imm8
  | .vmovI32T1D c d imm8 => simdWordT32 (0#1 ++ c ++ 0#1) 0#1 0#1 d imm8
  | .vmovI32T1Q c q imm8 => simdWordT32 (0#1 ++ c ++ 0#1) 1#1 0#1 (q ++ 0#1) imm8
  | .vmovI16T3D c d imm8 => simdWordT32 (0b10#2 ++ c ++ 0#1) 0#1 0#1 d imm8
  | .vmovI16T3Q c q imm8 => simdWordT32 (0b10#2 ++ c ++ 0#1) 1#1 0#1 (q ++ 0#1) imm8
  | .vmovI32T4D c d imm8 => simdWordT32 (0b110#3 ++ c) 0#1 0#1 d imm8
  | .vmovI32T4Q c q imm8 => simdWordT32 (0b110#3 ++ c) 1#1 0#1 (q ++ 0#1) imm8
  | .vmovI8T4D d imm8 => simdWordT32 0b1110#4 0#1 0#1 d imm8
  | .vmovI8T4Q q imm8 => simdWordT32 0b1110#4 1#1 0#1 (q ++ 0#1) imm8
  | .vmovF32T4D d imm8 => simdWordT32 0b1111#4 0#1 0#1 d imm8
  | .vmovF32T4Q q imm8 => simdWordT32 0b1111#4 1#1 0#1 (q ++ 0#1) imm8
  | .vmovI64T5D d imm8 => simdWordT32 0b1110#4 0#1 1#1 d imm8
  | .vmovI64T5Q q imm8 => simdWordT32 0b1110#4 1#1 1#1 (q ++ 0#1) imm8
  | .undefinedT1 c h imm8 => simdWordT32 (0#1 ++ c ++ 0#1) 1#1 0#1 (h ++ 1#1) imm8
  | .undefinedT3 c h imm8 => simdWordT32 (0b10#2 ++ c ++ 0#1) 1#1 0#1 (h ++ 1#1) imm8
  | .undefinedT4 c h imm8 => simdWordT32 (0b11#2 ++ c) 1#1 0#1 (h ++ 1#1) imm8
  | .undefinedT5 h imm8 => simdWordT32 0b1110#4 1#1 1#1 (h ++ 1#1) imm8
  | .vmovF16T2 d imm8 _ => fpWord 0b1110#4 0b01#2 (d.extractLsb' 0 1) (d.extractLsb' 1 4) imm8
  | .vmovF32T2 d imm8 _ => fpWord 0b1110#4 0b10#2 (d.extractLsb' 0 1) (d.extractLsb' 1 4) imm8
  | .vmovF64T2 d imm8 _ => fpWord 0b1110#4 0b11#2 (d.extractLsb' 4 1) (d.extractLsb' 0 4) imm8
  | .undefinedT2 dvd imm8 _ => fpWord 0b1110#4 0b00#2 (dvd.extractLsb' 4 1) (dvd.extractLsb' 0 4) imm8

/-- The four bytes of a 32-bit instruction at rising addresses: an A32 word little-endian, a T32 pair with `hw1` first and
each halfword little-endian (R52, R53). -/
def layout (set : ISet) (w : Word) : List Byte :=
  match set with
  | .a32 => [w.extractLsb' 0 8, w.extractLsb' 8 8, w.extractLsb' 16 8, w.extractLsb' 24 8]
  | .t32 => [w.extractLsb' 16 8, w.extractLsb' 24 8, w.extractLsb' 0 8, w.extractLsb' 8 8]

/-- The bytes of an instruction in memory, lowest address first (R53). -/
def encode (i : Instr) : List Byte := layout i.iset (encodeWord i)

/-! Words numbered as the opcode table numbers them. -/

/-- The instruction set in which a word of the opcode table is read: T32 when T1 to T5 give it a meaning, else A32. The two
sets share only the words of A2 with `cond == 1110`, which are T2's (R81). (log 22) -/
def tableISet (w : Word) : ISet :=
  match decodeT32 w with
  | .ok _ => .t32
  | .error _ => .a32

/-- The 32 bits of a table row's word; every bit above `nbits` is 0. -/
def tableWord (nbits w : Nat) : Word := BitVec.ofNat 32 (w % 2 ^ nbits)

/-- The instruction that the decoder reads from a word numbered as spec/opcode_table.json numbers its rows: the A32 word, or
`hw1` in bits 31:16 and `hw2` in bits 15:0 (R6, R65). (log 22) -/
def decodeTableWord (nbits w : Nat) : Option Instr :=
  match decode (tableISet (tableWord nbits w)) (layout (tableISet (tableWord nbits w)) (tableWord nbits w)) with
  | .ok (i, _) => some i
  | .error _ => none

end Sys2Proof
end

