-- ==== Sys2Proof/Config.lean ====
section
/-! DEFINITION. What an implementation fixes, and the free values: constants with no body, so that no proof can
see what they are. -/

namespace Sys2Proof

/-- The Security state of the PE (R39). -/
inductive SecurityState where
  | secure
  | nonSecure
deriving DecidableEq, Repr, Inhabited

/-- The three answers of `CheckAdvSIMDOrVFPEnabled(TRUE, advsimd)` (R5, R108). -/
inductive EnableAnswer where
  /-- The instruction goes on to its write. -/
  | enabled
  /-- The instruction is undefined. -/
  | undefined
  /-- The instruction is trapped to Hyp mode. -/
  | hypTrap
deriving DecidableEq, Repr, Inhabited

/-- The value of the parameter `EnableCheck` (R5, R108, D10), held in the state as plain data.
A claim about every state is a claim about every value of it. (log 3) -/
inductive EnableParam where
  /-- One answer for the Advanced SIMD encodings and one for A2 and T2, whatever the registers hold: the form in which the
  vectors of 95_test_vectors.md give the parameter. -/
  | constant (simd scalar : EnableAnswer)
  /-- The function of R173, for a PE with or without a Secure monitor level and with or without Hyp mode.
  PRESUMED: the whole of R173 is general knowledge (log 4). -/
  | architected (hasMonitor hasHyp : Bool)
  /-- Any other function of the six inputs of D10: the opaque `Config.enableCheck k`. -/
  | implementation (k : Nat)
deriving DecidableEq, Repr

/-- The parameter `EnableCheck` left open (R5, D10): for each `k`, some function of CPACR, NSACR, HCPTR, FPEXC, the
Security state, the PE mode field and `advsimd`, about which nothing is known. (log 3) -/
opaque Config.enableCheck (k : Nat) (cpacr nsacr hcptr fpexc : Word) (security : SecurityState) (mode : BitVec 5)
    (advsimd : Bool) : EnableAnswer

/-- The draw `UndefWhenCondFails` of the n-th step where the state lists none: a free Boolean (R5, R107, D9). (log 6) -/
opaque Config.undefWhenCondFails : Nat → Bool

/-- What `AdvSIMDExpandImm('1', '1111', imm8)` would be: not defined by the spec and never reached by a
VMOV (immediate) (R83, U21). (log 13) -/
opaque Config.reservedExpansion : BitVec 8 → DWord

/-- The bits of HSR that R174 and R179 do not name when a Hyp Trap is taken; the index keeps two entries apart. (log 2) -/
opaque Config.hsrUnnamed : Nat → Word

/-- The number of 64-bit SIMD&FP registers, `NumDRegs` (R5, R20, D6). -/
abbrev Config.numDRegs : Nat := 32

end Sys2Proof
end

