-- ==== Sys2Proof/Machine/State.lean ====
section
/-! DEFINITION. The machine's state as plain data, the reasons a step can stop, and the state after reset. -/

namespace Sys2Proof.Machine

/-- Memory: the bytes that hold program text, by address, strictly rising (R41, R53, R56). An address that is not listed
holds no program text and reads as nothing (R57). (log 12) -/
abbrev Memory := List Host.Cell

/-- The state of the PE. Registers whose fields the spec names are held whole, with accessors in Machine/Flags.lean and
Machine/Ops.lean. -/
structure State where
  /-- `D[0]` to `D[31]` (R20). The S and Q views are computed from it (R21, R22). -/
  dregs : Vector DWord Config.numDRegs
  /-- R0 to R14, which no step changes (R26, D23). R15 is `pc`. -/
  gprs : Vector Word 15
  /-- The address of the instruction being executed (R27). -/
  pc : Word
  /-- CPSR: N, Z, C, V (R30), T (R31), ITSTATE (R32), DIT (R38), the mode field M (R39). -/
  cpsr : Word
  /-- FPSCR, of which Len and Stride are read (R33). -/
  fpscr : Word
  /-- CPACR (R34). -/
  cpacr : Word
  /-- NSACR (R35). -/
  nsacr : Word
  /-- HCPTR (R36). -/
  hcptr : Word
  /-- FPEXC (R37). -/
  fpexc : Word
  /-- The Security state (R39). -/
  security : SecurityState
  /-- SPSR_und (R179). -/
  spsrUnd : Word
  /-- LR_und (R179). -/
  lrUnd : Word
  /-- SPSR_hyp (R179). -/
  spsrHyp : Word
  /-- ELR_hyp (R179). -/
  elrHyp : Word
  /-- HSR (R174). -/
  hsr : Word
  /-- The vector base of the Undefined Instruction exception (R179). -/
  vbar : Word
  /-- HVBAR (R174, R179). -/
  hvbar : Word
  /-- The system control register, of which R179 reads TE and EE. -/
  sctlr : Word
  /-- The memory instructions are fetched from (R41). -/
  mem : Memory
  /-- The implementation parameter `HasFP16` (R5, D20). (log 5) -/
  hasFP16 : Bool
  /-- The implementation parameter `EnableCheck` (R5, D10). (log 3) -/
  enableParam : EnableParam
  /-- The model's own: the coming values of the draw `UndefWhenCondFails` (R5, R107). (log 6) -/
  draws : List Bool
  /-- The model's own: how many draws have been taken. (log 6) -/
  drawsTaken : Nat
deriving DecidableEq, Repr

/-- The two fault outcomes (R11, R170). Each records the `pc` at which it happened (R174); the state is the one before the
step (R187) and the run ends (R178). (log 1) -/
inductive Fault where
  /-- `Fault(Undefined)`: raised by every instruction whose decode is UNDEFINED (R89) or whose enable check answers
  undefined (R108). Safe: the machine stops where the architecture would run a handler (R171, D13). -/
  | undefined (pc : Word)
  /-- `Fault(HypTrap)`: raised by every instruction whose enable check answers trapped to Hyp mode (R108, R172). Safe. -/
  | hypTrap (pc : Word)
deriving DecidableEq, Repr

/-- The refusals (R11) and the model's own. Each is safe: nothing can be proved of a run that meets one but that it stops. -/
inductive Refusal where
  /-- An instruction that has no meaning yet: raised by `exec` alone. Safe. -/
  | notModelled (mnemonic : String)
  /-- `Refuse(Unpredictable)`: a conditional half-precision move (R90, R157), and the settings of CPACR, NSACR and HCPTR that
  R173 calls UNPREDICTABLE (U20). Safe. (log 4, log 14) -/
  | unpredictable
  /-- `Refuse(ShouldBeZero)`: a `(0)` bit of A2 or T2 is 1 (R91). Safe. (log 15) -/
  | shouldBeZero
  /-- `Refuse(MisalignedPC)`: `pc` is not aligned for the instruction set (R29). Safe. (log 10) -/
  | misalignedPC
  /-- `Refuse(PCWrap)`: `pc + 4` exceeds `0xFFFFFFFF` (R29). Safe. (log 10) -/
  | pcWrap
  /-- `Refuse(BadITSTATE)`: an IT state the architecture does not produce (R32). Safe. (log 9) -/
  | badITSTATE
  /-- `NotThisInstruction`: raised by a step whose word is not VMOV (immediate), with the reason (R11, R88, R92). Safe. (log 16) -/
  | notThisInstruction (why : NotThis)
  /-- The fetch meets an address that holds no program text: the run does not reach an instruction (R57). Safe. (log 12) -/
  | noProgramText (address : Word)
deriving DecidableEq, Repr

/-- The outcome of a step or of an instruction. -/
abbrev Outcome := Host.Outcome State Fault Refusal

/-- The machine right after reset. The spec gives no reset value (R43, R200, D14): the control registers, `pc`, the mode and
the Security state are the family's (PRESUMED, log 17), the others are zero (DESIGN CHOICE, log 18); no program text is
placed (log 22). The two implementation parameters take the values that the conventions of 95_test_vectors.md give them
(DESIGN CHOICE, log 3, log 5). -/
def State.reset : State where
  dregs := Vector.replicate Config.numDRegs 0#64
  gprs := Vector.replicate 15 0#32
  pc := 0x00000000#32
  cpsr := 0x000001D3#32
  fpscr := 0#32
  cpacr := 0#32
  nsacr := 0#32
  hcptr := 0x000033FF#32
  fpexc := 0#32
  security := .secure
  spsrUnd := 0#32
  lrUnd := 0#32
  spsrHyp := 0#32
  elrHyp := 0#32
  hsr := 0#32
  vbar := 0#32
  hvbar := 0#32
  sctlr := 0#32
  mem := []
  hasFP16 := true
  enableParam := .constant .enabled .enabled
  draws := []
  drawsTaken := 0

end Sys2Proof.Machine
end

