-- ==== Sys2Proof/Machine/Flags.lean ====
section
/-! DEFINITION. The fields of CPSR and FPSCR, the condition table (R102), and the IT state (R32). VMOV (immediate) writes no
flag (R30, R112): every flag is only read. -/

namespace Sys2Proof.Machine

/-- CPSR.N (R30). -/
def State.flagN (s : State) : Bool := s.cpsr.getLsbD 31

/-- CPSR.Z (R30). -/
def State.flagZ (s : State) : Bool := s.cpsr.getLsbD 30

/-- CPSR.C (R30). -/
def State.flagC (s : State) : Bool := s.cpsr.getLsbD 29

/-- CPSR.V (R30). -/
def State.flagV (s : State) : Bool := s.cpsr.getLsbD 28

/-- CPSR.DIT, which no rule of the Operation reads (R38, R205). -/
def State.dit (s : State) : Bool := s.cpsr.getLsbD 21

/-- CPSR.T: 1 selects T32 (R31). -/
def State.thumb (s : State) : Bool := s.cpsr.getLsbD 5

/-- The instruction set the word at `pc` is decoded in (R31, D24). -/
def State.iset (s : State) : ISet := if s.thumb then .t32 else .a32

/-- The mode field CPSR.M (R39). -/
def State.modeBits (s : State) : BitVec 5 := s.cpsr.extractLsb' 0 5

/-- The modes of R182 (PRESUMED, log 17). -/
inductive Mode where
  | user | fiq | irq | supervisor | monitor | abort | hyp | undefined | system
deriving DecidableEq, Repr

/-- The encoding of a mode in CPSR.M (R182). -/
def Mode.bits : Mode → BitVec 5
  | .user => 0b10000#5
  | .fiq => 0b10001#5
  | .irq => 0b10010#5
  | .supervisor => 0b10011#5
  | .monitor => 0b10110#5
  | .abort => 0b10111#5
  | .hyp => 0b11010#5
  | .undefined => 0b11011#5
  | .system => 0b11111#5

/-- The PE mode, where CPSR.M names one (R182). -/
def State.mode (s : State) : Option Mode :=
  [Mode.user, .fiq, .irq, .supervisor, .monitor, .abort, .hyp, .undefined, .system].find? fun m => m.bits == s.modeBits

/-- FPSCR.Len (R33). -/
def State.fpscrLen (s : State) : BitVec 3 := s.fpscr.extractLsb' 16 3

/-- FPSCR.Stride (R33). -/
def State.fpscrStride (s : State) : BitVec 2 := s.fpscr.extractLsb' 20 2

/-! The condition. -/

/-- The condition table (R102). -/
def condHolds (c : Cond) (n z cf v : Bool) : Bool :=
  match c with
  | .eq => z
  | .ne => !z
  | .cs => cf
  | .cc => !cf
  | .mi => n
  | .pl => !n
  | .vs => v
  | .vc => !v
  | .hi => cf && !z
  | .ls => !cf || z
  | .ge => n == v
  | .lt => n != v
  | .gt => !z && n == v
  | .le => z || n != v
  | .al => true
  | .nv => true

/-- The second form of R102: a base test chosen by `cond[3:1]`, inverted when `cond[0] == 1` and `cond != '1111'`. -/
def condHoldsByBase (b : BitVec 4) (n z cf v : Bool) : Bool :=
  let base :=
    match (b.extractLsb' 1 3).toNat with
    | 0 => z
    | 1 => cf
    | 2 => n
    | 3 => v
    | 4 => cf && !z
    | 5 => n == v
    | 6 => n == v && !z
    | _ => true
  if b.getLsbD 0 && b != 0b1111#4 then !base else base

/-- `ConditionPassed()` for a given current condition (R101). -/
def State.conditionPassed (s : State) (c : Cond) : Bool := condHolds c s.flagN s.flagZ s.flagC s.flagV

/-! The IT state. -/

/-- ITSTATE: `IT[7:2]` in CPSR 15:10, `IT[1:0]` in CPSR 26:25 (R32). -/
def State.itState (s : State) : BitVec 8 := s.cpsr.extractLsb' 10 6 ++ s.cpsr.extractLsb' 25 2

/-- CPSR with another ITSTATE and every other bit as it was (R32). -/
def cpsrWithIT (cpsr : Word) (it : BitVec 8) : Word :=
  cpsr.extractLsb' 27 5 ++ it.extractLsb' 0 2 ++ cpsr.extractLsb' 16 9 ++ it.extractLsb' 2 6 ++ cpsr.extractLsb' 0 10

/-- `InITBlock()`: `ITSTATE[3:0] != '0000'` (R32). -/
def State.inITBlock (s : State) : Bool := s.itState.extractLsb' 0 4 != 0#4

/-- The condition of the current T32 instruction, where the IT state gives one (R32, R104). -/
def State.itCondition (s : State) : Option Cond :=
  if s.inITBlock then some (Cond.ofBits (s.itState.extractLsb' 4 4))
  else if s.itState = 0#8 then some .al
  else none

/-- `ITAdvance()` on the eight bits (R32). -/
def itAdvance (it : BitVec 8) : BitVec 8 :=
  if it.extractLsb' 0 3 = 0#3 then 0#8 else it.extractLsb' 5 3 ++ (it.extractLsb' 0 5 <<< 1)

/-- The IT states the model refuses: a nonzero one in A32 state, and in T32 state one whose low four bits are zero and high
four are not (R32). -/
def State.badITSTATE (s : State) : Bool :=
  match s.iset with
  | .a32 => s.itState != 0#8
  | .t32 => !s.inITBlock && s.itState != 0#8

end Sys2Proof.Machine
end

