-- ==== Sys2Proof/Machine/Operands.lean ====
section
/-! DEFINITION. The operand forms: the two immediate expansions (R83, R85) and the constants that decode binds (R87). -/

namespace Sys2Proof.Machine

/-- `AdvSIMDExpandImm(op, cmode, imm8)`, row by row (R83). (log 13) -/
def advSIMDExpandImm (op : BitVec 1) (cmode : BitVec 4) (imm8 : BitVec 8) : DWord :=
  match (cmode.extractLsb' 1 3).toNat with
  | 0 => (0#24 ++ imm8).replicate 2
  | 1 => (0#16 ++ imm8 ++ 0#8).replicate 2
  | 2 => (0#8 ++ imm8 ++ 0#16).replicate 2
  | 3 => (imm8 ++ 0#24).replicate 2
  | 4 => (0#8 ++ imm8).replicate 4
  | 5 => (imm8 ++ 0#8).replicate 4
  | 6 =>
    if cmode.getLsbD 0 then (0#8 ++ imm8 ++ BitVec.allOnes 16).replicate 2
    else (0#16 ++ imm8 ++ BitVec.allOnes 8).replicate 2
  | _ =>
    if cmode.getLsbD 0 then
      if op = 0#1 then
        (imm8.extractLsb' 7 1 ++ ~~~(imm8.extractLsb' 6 1) ++ (imm8.extractLsb' 6 1).replicate 5 ++ imm8.extractLsb' 0 6 ++
          0#19).replicate 2
      else Config.reservedExpansion imm8
    else
      if op = 0#1 then imm8.replicate 8
      else
        (imm8.extractLsb' 7 1).replicate 8 ++ (imm8.extractLsb' 6 1).replicate 8 ++ (imm8.extractLsb' 5 1).replicate 8 ++
          (imm8.extractLsb' 4 1).replicate 8 ++ (imm8.extractLsb' 3 1).replicate 8 ++ (imm8.extractLsb' 2 1).replicate 8 ++
          (imm8.extractLsb' 1 1).replicate 8 ++ (imm8.extractLsb' 0 1).replicate 8

/-- The sign, exponent and fraction of `VFPExpandImm(imm8, N)`, for an exponent of `e` bits and a fraction of `f` (R85). -/
def vfpExpand (e f : Nat) (imm8 : BitVec 8) : BitVec (1 + (1 + 1 * (e - 3) + 2) + (4 + (f - 4))) :=
  imm8.extractLsb' 7 1 ++
    (~~~(imm8.extractLsb' 6 1) ++ (imm8.extractLsb' 6 1).replicate (e - 3) ++ imm8.extractLsb' 4 2) ++
    (imm8.extractLsb' 0 4 ++ 0#(f - 4))

/-- `VFPExpandImm(imm8, 16)` (R85). (log 13) -/
def vfpExpandImm16 (imm8 : BitVec 8) : BitVec 16 := vfpExpand 5 10 imm8

/-- `VFPExpandImm(imm8, 32)` (R85). (log 13) -/
def vfpExpandImm32 (imm8 : BitVec 8) : BitVec 32 := vfpExpand 8 23 imm8

/-- `VFPExpandImm(imm8, 64)` (R85). (log 13) -/
def vfpExpandImm64 (imm8 : BitVec 8) : BitVec 64 := vfpExpand 11 52 imm8

/-- 128 times the value that R85 says an imm8 denotes: `(-1)^a * (16 + UInt(efgh)) * 2^UInt(NOT(b):c:d)`. -/
def vfpValue128 (imm8 : BitVec 8) : Int :=
  let magnitude : Int :=
    (16 + (imm8.extractLsb' 0 4).toNat) * 2 ^ (~~~(imm8.extractLsb' 6 1) ++ imm8.extractLsb' 4 2).toNat
  if imm8.getLsbD 7 then -magnitude else magnitude

/-- The defined values of `size` in A2 and T2 (R72, R77). -/
inductive FpSize where
  | half
  | single
  | double
deriving DecidableEq, Repr

/-- `esize = 8 << UInt(size)` (R150). -/
def FpSize.esize : FpSize → Nat
  | .half => 16
  | .single => 32
  | .double => 64

/-- What decode binds for the Operation (R87). -/
structure Binding where
  /-- TRUE for the Advanced SIMD encodings. -/
  advsimd : Bool
  /-- The width in bits of `imm`; not a lane size (C2). -/
  esize : Nat
  /-- The constant, zero-extended from `esize` bits to 64. -/
  imm : DWord
  /-- The number of the destination: of an S register when `esize <= 32`, else of a D register. -/
  d : BitVec 5
  /-- How many D registers are written when `esize > 32` (C5). -/
  regs : Nat
deriving DecidableEq, Repr

/-- The bindings of an Advanced SIMD encoding with `Q == 0` (R87, R120). -/
def bindD (op : BitVec 1) (cmode : BitVec 4) (imm8 : BitVec 8) (d : DReg) : Binding :=
  { advsimd := true, esize := 64, imm := advSIMDExpandImm op cmode imm8, d := d, regs := 1 }

/-- The bindings of an Advanced SIMD encoding with `Q == 1` and `Vd<0> == 0`: the register number is twice the Q number
(R25, R87, R120). -/
def bindQ (op : BitVec 1) (cmode : BitVec 4) (imm8 : BitVec 8) (q : QReg) : Binding :=
  { advsimd := true, esize := 64, imm := advSIMDExpandImm op cmode imm8, d := q ++ 0#1, regs := 2 }

/-- The bindings of A2 and T2 (R87, R150). -/
def bindFP (size : FpSize) (imm8 : BitVec 8) (d : BitVec 5) : Binding :=
  { advsimd := false
    esize := size.esize
    imm :=
      match size with
      | .half => (vfpExpandImm16 imm8).setWidth 64
      | .single => (vfpExpandImm32 imm8).setWidth 64
      | .double => vfpExpandImm64 imm8
    d := d
    regs :=
      match size with
      | .half => 0
      | .single => 0
      | .double => 1 }

end Sys2Proof.Machine
end

