-- ==== Sys2Proof/Machine/Ops.lean ====
section
/-! DEFINITION. The named operations over memory and registers, the fetch, the enable check, the raising of a fault, and the
common Operation that all ten encodings share (R100). -/

namespace Sys2Proof.Machine

/-! Memory. -/

/-- The byte at an address; none where there is no program text (R57). (log 12) -/
def Memory.read : Memory → Nat → Option Byte
  | [], _ => none
  | (a, b) :: rest, k => if a = k then some b else Memory.read rest k

/-- Memory with one byte placed, addresses kept rising. No instruction stores (R50): the loader alone uses it. -/
def Memory.write : Memory → Nat → Byte → Memory
  | [], k, v => [(k, v)]
  | (a, b) :: rest, k, v =>
    if k < a then (k, v) :: (a, b) :: rest
    else if k = a then (k, v) :: rest
    else (a, b) :: Memory.write rest k v

/-- Whether every address of a memory lies above `k`, and they rise strictly. -/
def Memory.risingAbove : Nat → Memory → Bool
  | _, [] => true
  | k, (a, _) :: rest => k < a && Memory.risingAbove a rest

/-- The canonical form: addresses below 2^32 (R41), strictly rising. An unlisted address reads as nothing, so no entry can
equal what an unlisted address reads as. -/
def Memory.wf : Memory → Bool
  | [] => true
  | (a, b) :: rest => Memory.risingAbove a rest && ((a, b) :: rest).all fun c => c.1 < 2 ^ 32

/-- `MemRead(pc + k, 1)` for the fetch (R9, R51, R52). -/
def State.fetchByte (s : State) (k : Nat) : Except Refusal Byte :=
  match s.mem.read (s.pc + BitVec.ofNat 32 k).toNat with
  | some b => .ok b
  | none => .error (.noProgramText (s.pc + BitVec.ofNat 32 k))

/-- The bytes at `pc + k` for each `k` of a list, in its order. -/
def State.fetchBytes (s : State) : List Nat → Except Refusal (List Byte)
  | [] => .ok []
  | k :: ks =>
    match s.fetchByte k with
    | .error r => .error r
    | .ok b =>
      match State.fetchBytes s ks with
      | .error r => .error r
      | .ok bs => .ok (b :: bs)

/-- Whether the two bytes of `hw1` begin a 32-bit T32 instruction (R93). -/
def beginsLongT32 : List Byte → Bool
  | b0 :: b1 :: _ => isLongT32 (halfOfBytes b0 b1)
  | _ => false

/-- The bytes of the instruction at `pc`: four in A32 state (R51), two or four in T32 state (R52, R93). -/
def State.fetch (s : State) : Except Refusal (List Byte) :=
  match s.iset with
  | .a32 => s.fetchBytes [0, 1, 2, 3]
  | .t32 =>
    match s.fetchBytes [0, 1] with
    | .error r => .error r
    | .ok hw1 => if beginsLongT32 hw1 then s.fetchBytes [0, 1, 2, 3] else .ok hw1

/-- Bytes placed from an address on: the loading of program text from outside (R56). -/
def placeBytes : Memory → Word → List Byte → Memory
  | m, _, [] => m
  | m, a, b :: bs => placeBytes (m.write a.toNat b) (a + 1#32) bs

/-- CPSR with another T bit and every other bit as it was (R31). -/
def cpsrWithT (cpsr : Word) (set : ISet) : Word :=
  cpsr.extractLsb' 6 26 ++ (match set with | .a32 => 0#1 | .t32 => 1#1) ++ cpsr.extractLsb' 0 5

/-! The SIMD&FP register file. -/

/-- `D[n]` (R20). -/
def State.readD (s : State) (n : DReg) : DWord := s.dregs[n.toNat]'n.isLt

/-- `D[n] <- v`: all 64 bits, and no other register (R20). -/
def State.writeD (s : State) (n : DReg) (v : DWord) : State := { s with dregs := s.dregs.set n.toNat v n.isLt }

/-- The D register that holds `S[n]`, `n div 2` (R21). -/
def sHome (n : SReg) : DReg := n >>> 1

/-- `S[n]`: the low half of `D[n div 2]` when `n` is even, the high half when `n` is odd (R21). -/
def State.readS (s : State) (n : SReg) : Word :=
  if n.getLsbD 0 then (s.readD (sHome n)).extractLsb' 32 32 else (s.readD (sHome n)).extractLsb' 0 32

/-- `S[n] <- v`: exactly those 32 bits (R21). -/
def State.writeS (s : State) (n : SReg) (v : Word) : State :=
  s.writeD (sHome n)
    (if n.getLsbD 0 then v ++ (s.readD (sHome n)).extractLsb' 0 32 else (s.readD (sHome n)).extractLsb' 32 32 ++ v)

/-- `Q[n] = D[2n+1]:D[2n]` (R22). -/
def State.readQ (s : State) (n : QReg) : BitVec 128 := s.readD (n ++ 1#1) ++ s.readD (n ++ 0#1)

/-- `for r = 0 to regs-1: D[d+r] <- v` (R110). -/
def State.writeDs (s : State) (d : DReg) (v : DWord) : Nat → State
  | 0 => s
  | r + 1 => (State.writeDs s d v r).writeD (d + BitVec.ofNat 5 r) v

/-- Steps 6 and 7 of R100: the S register when `esize <= 32` (R109), else the D registers (R110). -/
def State.writeResult (s : State) (b : Binding) : State :=
  if b.esize ≤ 32 then s.writeS b.d (b.imm.setWidth 32) else s.writeDs b.d b.imm b.regs

/-! Step 0 and completion. -/

/-- `pc` breaks the alignment of the instruction set (R29, R54). -/
def State.misalignedPC (s : State) : Bool :=
  match s.iset with
  | .a32 => s.pc.extractLsb' 0 2 != 0#2
  | .t32 => s.pc.extractLsb' 0 1 != 0#1

/-- `pc + 4` exceeds `0xFFFFFFFF` (R29). -/
def State.pcWraps (s : State) : Bool := s.pc.toNat + 4 > 0xFFFFFFFF

/-- Step 0 of R100, in its order: misaligned `pc`, `pc + 4` overflow, bad ITSTATE (R29, R32). -/
def State.preCheck (s : State) : Option Refusal :=
  if s.misalignedPC then some .misalignedPC
  else if s.pcWraps then some .pcWrap
  else if s.badITSTATE then some .badITSTATE
  else none

/-- ITSTATE after the step: advanced in T32 state, as it was in A32 state (R32, R111). -/
def State.nextIT (s : State) : BitVec 8 :=
  match s.iset with
  | .a32 => s.itState
  | .t32 => itAdvance s.itState

/-- The draw `UndefWhenCondFails` of this step (R5, R107). (log 6) -/
def State.undefWhenCondFails (s : State) : Bool :=
  match s.draws with
  | b :: _ => b
  | [] => Config.undefWhenCondFails s.drawsTaken

/-- Step 8 of R100: `pc + 4` and, in T32 state, `ITAdvance()` (R28, R111); the draw of this step is used up (log 6). -/
def State.complete (s : State) : State :=
  { s with
    pc := s.pc + 4#32
    cpsr := cpsrWithIT s.cpsr s.nextIT
    draws := s.draws.tail
    drawsTaken := s.drawsTaken + 1 }

/-! The enable check. -/

/-- R173 as a function of its inputs. `none`: a setting that is UNPREDICTABLE, which U20 refuses: cp10 and cp11 (or TCP10 and
TCP11) programmed differently, in either Security state, in a register the PE has (NSACR with a Secure monitor level, HCPTR
with Hyp mode); or the reserved value `10`. PRESUMED (log 4). -/
def architectedEnableCheck (hasMonitor hasHyp : Bool) (cpacr nsacr hcptr fpexc : Word) (security : SecurityState)
    (mode : BitVec 5) (advsimd : Bool) : Option EnableAnswer :=
  let nonSecure := security == .nonSecure
  let nsacrRead := hasMonitor && nonSecure
  let hcptrRead := hasHyp && nonSecure
  let isHyp := mode == Mode.hyp.bits
  let nsDisabled := nsacrRead && !nsacr.getLsbD 10
  let nsAsedis := nsacrRead && nsacr.getLsbD 15
  let cp10 := if nsDisabled then 0b00#2 else cpacr.extractLsb' 20 2
  let asedis := cpacr.getLsbD 31 || nsAsedis
  let tase := hcptr.getLsbD 15 || nsAsedis
  let tcp10 := hcptr.getLsbD 10 || nsDisabled
  if cpacr.extractLsb' 20 2 ≠ cpacr.extractLsb' 22 2 then none
  else if hasMonitor && nsacr.getLsbD 10 != nsacr.getLsbD 11 then none
  else if hasHyp && hcptr.getLsbD 10 != hcptr.getLsbD 11 then none
  else if !isHyp && advsimd && asedis then some .undefined
  else if !isHyp && cp10 == 0b00#2 then some .undefined
  else if !isHyp && cp10 == 0b01#2 && mode == Mode.user.bits then some .undefined
  else if !isHyp && cp10 == 0b10#2 then none
  else if !fpexc.getLsbD 30 then some .undefined
  else if hcptrRead && (advsimd && tase || tcp10) then some (if isHyp then .undefined else .hypTrap)
  else some .enabled

/-- `CheckAdvSIMDOrVFPEnabled(TRUE, advsimd)`: the parameter `EnableCheck` on the six inputs of D10 (R108). It reads the state
and changes none. (log 3) -/
def State.enableCheck (s : State) (advsimd : Bool) : Option EnableAnswer :=
  match s.enableParam with
  | .constant simd scalar => some (if advsimd then simd else scalar)
  | .architected hasMonitor hasHyp =>
    architectedEnableCheck hasMonitor hasHyp s.cpacr s.nsacr s.hcptr s.fpexc s.security s.modeBits advsimd
  | .implementation k => some (Config.enableCheck k s.cpacr s.nsacr s.hcptr s.fpexc s.security s.modeBits advsimd)

/-! Faults. -/

/-- The kinds of fault (R11). -/
inductive FaultKind where
  | undefined
  | hypTrap
deriving DecidableEq, Repr

/-- Raising a fault, the one operation every instruction uses: the run ends and the state stays as it was before the step;
only the kind and the `pc` are recorded (R171, R172, R174, R178, R187). (log 1) -/
def raiseFault (k : FaultKind) (s : State) : Outcome :=
  match k with
  | .undefined => .fault (.undefined s.pc)
  | .hypTrap => .fault (.hypTrap s.pc)

/-- CPSR as R179 leaves it on entry to Undefined mode: M is Undefined, I is 1, IT is 0, T and E are SCTLR's TE (bit 30) and
EE (bit 25); E is CPSR bit 9, I is bit 7. PRESUMED positions (log 2). -/
def undefinedEntryCpsr (cpsr sctlr : Word) : Word :=
  cpsr.extractLsb' 27 5 ++ 0#2 ++ cpsr.extractLsb' 16 9 ++ 0#6 ++ sctlr.extractLsb' 25 1 ++ cpsr.extractLsb' 8 1 ++ 1#1 ++
    cpsr.extractLsb' 6 1 ++ sctlr.extractLsb' 30 1 ++ Mode.undefined.bits

/-- The architected entry of an Undefined Instruction exception taken to Undefined mode (R179), for orientation: no step calls
it, since a fault ends the run (R178). PRESUMED (log 2). -/
def State.undefinedEntry (s : State) : State :=
  { s with
    spsrUnd := s.cpsr
    lrUnd := s.pc + (match s.iset with | .a32 => 4#32 | .t32 => 2#32)
    cpsr := undefinedEntryCpsr s.cpsr s.sctlr
    pc := s.vbar + 0x04#32 }

/-- HSR after a Hyp Trap: EC = 0x07 in 31:26, the instruction's condition in CV (24) and COND (23:20) (R174); its other bits are
a free value. PRESUMED positions (log 2). DESIGN CHOICE (log 29): CV is 1 for every instruction, of A32 and of T32; R174 gives
it no value. -/
def hypTrapSyndrome (cond : Cond) (free : Word) : Word :=
  0x07#6 ++ free.extractLsb' 25 1 ++ 1#1 ++ cond.toBits ++ free.extractLsb' 0 20

/-- The architected entry of a Hyp Trap (R174, R179), for orientation: no step calls it (R178). PRESUMED (log 2). -/
def State.hypTrapEntry (s : State) (cond : Cond) : State :=
  { s with
    spsrHyp := s.cpsr
    elrHyp := s.pc
    hsr := hypTrapSyndrome cond (Config.hsrUnnamed s.drawsTaken)
    cpsr := s.cpsr.extractLsb' 5 27 ++ Mode.hyp.bits
    pc := s.hvbar + 0x14#32 }

/-! The common Operation. -/

/-- What the decode text of an encoding concludes (R100 step 2, R105). -/
inductive Verdict where
  /-- No test fires: the bindings. -/
  | ok (b : Binding)
  /-- An UNDEFINED test fires first. -/
  | undef
  /-- The UNPREDICTABLE test fires first. -/
  | unpred
deriving DecidableEq, Repr

/-- The decode verdict of A2 and T2 in the order written (R150): FPSCR, then `HasFP16`, then the UNPREDICTABLE test
`conditional` (`cond != '1110'` in A2, `InITBlock()` in T2), the last two for `size == '01'` alone. -/
def State.decodeFP (s : State) (size : FpSize) (conditional : Bool) (imm8 : BitVec 8) (d : BitVec 5) : Verdict :=
  if s.fpscrLen ≠ 0#3 ∨ s.fpscrStride ≠ 0#2 then .undef
  else if size = .half ∧ s.hasFP16 = false then .undef
  else if size = .half ∧ conditional = true then .unpred
  else .ok (bindFP size imm8 d)

/-- Steps 4 to 7 of R100, for an instruction whose condition passed: decode's UNDEFINED, then the enable check, then the
write. The write is `write`, so that a failed condition can ask for the faults alone (R107). -/
def State.checkAndWrite (s : State) (v : Verdict) (write : Binding → State) : Outcome :=
  match v with
  | .unpred => .refused .unpredictable
  | .undef => raiseFault .undefined s
  | .ok b =>
    match s.enableCheck b.advsimd with
    | none => .refused .unpredictable
    | some .undefined => raiseFault .undefined s
    | some .hypTrap => raiseFault .hypTrap s
    | some .enabled => .next (write b).complete

/-- Steps 3 to 8 of R100 under the current condition `c`. With the condition failed no register is written (R106); an
instruction that would have faulted had the condition passed still faults when the draw of R107 is true. -/
def State.operate (s : State) (c : Cond) (v : Verdict) : Outcome :=
  if s.conditionPassed c then s.checkAndWrite v s.writeResult
  else
    match s.checkAndWrite v fun _ => s with
    | .next _ => .next s.complete
    | .fault f => if s.undefWhenCondFails then .fault f else .next s.complete
    | .refused r => if s.undefWhenCondFails then .refused r else .next s.complete

/-- The whole of R100 but for the fetch and the match: step 0, the `(0)` bits of step 1, the UNPREDICTABLE refusal of step 2,
then steps 3 to 8. `c` is the current condition, none where the IT state gives none (R32, R103, R104). -/
def State.runVmov (s : State) (sbz : SbzBits) (c : Option Cond) (v : Verdict) : Outcome :=
  match s.preCheck with
  | some r => .refused r
  | none =>
    if sbz.isClear = false then .refused .shouldBeZero
    else if v = .unpred then .refused .unpredictable
    else
      match c with
      | none => .refused .badITSTATE
      | some c => s.operate c v

end Sys2Proof.Machine
end

