-- ==== Sys2Proof/Machine/FpA32.lean ====
section
/-! DEFINITION. The meanings of the rows of A2, whose condition is the field `cond` (R103). -/

namespace Sys2Proof.Machine

/-- VMOV.F16 `<Sd>`, encoding A2 (R151). -/
def execVmovF16A2 (cond : Cond) (d : SReg) (imm8 : BitVec 8) (sbz : SbzBits) (s : State) : Outcome :=
  s.runVmov sbz (some cond) (s.decodeFP .half (cond != .al) imm8 d)

/-- VMOV.F32 `<Sd>`, encoding A2 (R152). -/
def execVmovF32A2 (cond : Cond) (d : SReg) (imm8 : BitVec 8) (sbz : SbzBits) (s : State) : Outcome :=
  s.runVmov sbz (some cond) (s.decodeFP .single (cond != .al) imm8 d)

/-- VMOV.F64 `<Dd>`, encoding A2 (R153). -/
def execVmovF64A2 (cond : Cond) (d : DReg) (imm8 : BitVec 8) (sbz : SbzBits) (s : State) : Outcome :=
  s.runVmov sbz (some cond) (s.decodeFP .double (cond != .al) imm8 d)

/-- The A2 words with `size == '00'`: UNDEFINED whatever FPSCR holds (R89, R150, R158). -/
def execUndefinedA2 (cond : Cond) (_dvd : BitVec 5) (_imm8 : BitVec 8) (sbz : SbzBits) (s : State) : Outcome :=
  s.runVmov sbz (some cond) .undef

end Sys2Proof.Machine
end

