-- ==== Sys2Proof/Machine/FpT32.lean ====
section
/-! DEFINITION. The meanings of the rows of T2, whose condition is the one the IT state gives (R104). -/

namespace Sys2Proof.Machine

/-- VMOV.F16 `<Sd>`, encoding T2 (R154). -/
def execVmovF16T2 (d : SReg) (imm8 : BitVec 8) (sbz : SbzBits) (s : State) : Outcome :=
  s.runVmov sbz s.itCondition (s.decodeFP .half s.inITBlock imm8 d)

/-- VMOV.F32 `<Sd>`, encoding T2 (R155). -/
def execVmovF32T2 (d : SReg) (imm8 : BitVec 8) (sbz : SbzBits) (s : State) : Outcome :=
  s.runVmov sbz s.itCondition (s.decodeFP .single s.inITBlock imm8 d)

/-- VMOV.F64 `<Dd>`, encoding T2 (R156). -/
def execVmovF64T2 (d : DReg) (imm8 : BitVec 8) (sbz : SbzBits) (s : State) : Outcome :=
  s.runVmov sbz s.itCondition (s.decodeFP .double s.inITBlock imm8 d)

/-- The T2 words with `size == '00'`: UNDEFINED whatever FPSCR holds (R89, R150, R158). -/
def execUndefinedT2 (_dvd : BitVec 5) (_imm8 : BitVec 8) (sbz : SbzBits) (s : State) : Outcome :=
  s.runVmov sbz s.itCondition .undef

end Sys2Proof.Machine
end

