-- ==== Sys2Proof/Machine/SimdA32.lean ====
section
/-! DEFINITION. The meanings of the A32 Advanced SIMD rows: A1, A3, A4, A5. Their condition is "always" (R103). -/

namespace Sys2Proof.Machine

/-- VMOV.I32 `<Dd>`, encoding A1 with `Q == 0` (R121). -/
def execVmovI32A1D (cmode21 : BitVec 2) (d : DReg) (imm8 : BitVec 8) (s : State) : Outcome :=
  s.runVmov .clear (some .al) (.ok (bindD 0#1 (0#1 ++ cmode21 ++ 0#1) imm8 d))

/-- VMOV.I32 `<Qd>`, encoding A1 with `Q == 1` (R121). -/
def execVmovI32A1Q (cmode21 : BitVec 2) (q : QReg) (imm8 : BitVec 8) (s : State) : Outcome :=
  s.runVmov .clear (some .al) (.ok (bindQ 0#1 (0#1 ++ cmode21 ++ 0#1) imm8 q))

/-- VMOV.I16 `<Dd>`, encoding A3 with `Q == 0` (R122). -/
def execVmovI16A3D (cmode1 : BitVec 1) (d : DReg) (imm8 : BitVec 8) (s : State) : Outcome :=
  s.runVmov .clear (some .al) (.ok (bindD 0#1 (0b10#2 ++ cmode1 ++ 0#1) imm8 d))

/-- VMOV.I16 `<Qd>`, encoding A3 with `Q == 1` (R122). -/
def execVmovI16A3Q (cmode1 : BitVec 1) (q : QReg) (imm8 : BitVec 8) (s : State) : Outcome :=
  s.runVmov .clear (some .al) (.ok (bindQ 0#1 (0b10#2 ++ cmode1 ++ 0#1) imm8 q))

/-- VMOV.I32 `<Dd>`, encoding A4 with `Q == 0` (R123). -/
def execVmovI32A4D (cmode0 : BitVec 1) (d : DReg) (imm8 : BitVec 8) (s : State) : Outcome :=
  s.runVmov .clear (some .al) (.ok (bindD 0#1 (0b110#3 ++ cmode0) imm8 d))

/-- VMOV.I32 `<Qd>`, encoding A4 with `Q == 1` (R123). -/
def execVmovI32A4Q (cmode0 : BitVec 1) (q : QReg) (imm8 : BitVec 8) (s : State) : Outcome :=
  s.runVmov .clear (some .al) (.ok (bindQ 0#1 (0b110#3 ++ cmode0) imm8 q))

/-- VMOV.I8 `<Dd>`, encoding A4 with `Q == 0` (R123). -/
def execVmovI8A4D (d : DReg) (imm8 : BitVec 8) (s : State) : Outcome :=
  s.runVmov .clear (some .al) (.ok (bindD 0#1 0b1110#4 imm8 d))

/-- VMOV.I8 `<Qd>`, encoding A4 with `Q == 1` (R123). -/
def execVmovI8A4Q (q : QReg) (imm8 : BitVec 8) (s : State) : Outcome :=
  s.runVmov .clear (some .al) (.ok (bindQ 0#1 0b1110#4 imm8 q))

/-- VMOV.F32 `<Dd>`, encoding A4 with `Q == 0` (R123). -/
def execVmovF32A4D (d : DReg) (imm8 : BitVec 8) (s : State) : Outcome :=
  s.runVmov .clear (some .al) (.ok (bindD 0#1 0b1111#4 imm8 d))

/-- VMOV.F32 `<Qd>`, encoding A4 with `Q == 1` (R123). -/
def execVmovF32A4Q (q : QReg) (imm8 : BitVec 8) (s : State) : Outcome :=
  s.runVmov .clear (some .al) (.ok (bindQ 0#1 0b1111#4 imm8 q))

/-- VMOV.I64 `<Dd>`, encoding A5 with `Q == 0` (R124). -/
def execVmovI64A5D (d : DReg) (imm8 : BitVec 8) (s : State) : Outcome :=
  s.runVmov .clear (some .al) (.ok (bindD 1#1 0b1110#4 imm8 d))

/-- VMOV.I64 `<Qd>`, encoding A5 with `Q == 1` (R124). -/
def execVmovI64A5Q (q : QReg) (imm8 : BitVec 8) (s : State) : Outcome :=
  s.runVmov .clear (some .al) (.ok (bindQ 1#1 0b1110#4 imm8 q))

/-- The A1 words with `Q == 1` and `Vd<0> == 1`: UNDEFINED (R89). -/
def execUndefinedA1 (_cmode21 : BitVec 2) (_h : BitVec 4) (_imm8 : BitVec 8) (s : State) : Outcome :=
  s.runVmov .clear (some .al) .undef

/-- The A3 words with `Q == 1` and `Vd<0> == 1`: UNDEFINED (R89). -/
def execUndefinedA3 (_cmode1 : BitVec 1) (_h : BitVec 4) (_imm8 : BitVec 8) (s : State) : Outcome :=
  s.runVmov .clear (some .al) .undef

/-- The A4 words with `Q == 1` and `Vd<0> == 1`: UNDEFINED (R89). -/
def execUndefinedA4 (_cmode10 : BitVec 2) (_h : BitVec 4) (_imm8 : BitVec 8) (s : State) : Outcome :=
  s.runVmov .clear (some .al) .undef

/-- The A5 words with `Q == 1` and `Vd<0> == 1`: UNDEFINED (R89). -/
def execUndefinedA5 (_h : BitVec 4) (_imm8 : BitVec 8) (s : State) : Outcome :=
  s.runVmov .clear (some .al) .undef

end Sys2Proof.Machine
end

