-- ==== Sys2Proof/Machine/SimdT32.lean ====
section
/-! DEFINITION. The meanings of the T32 Advanced SIMD rows: T1, T3, T4, T5. Their condition is the one the IT state gives (R104, R131). -/

namespace Sys2Proof.Machine

/-- VMOV.I32 `<Dd>`, encoding T1 with `Q == 0` (R125). -/
def execVmovI32T1D (cmode21 : BitVec 2) (d : DReg) (imm8 : BitVec 8) (s : State) : Outcome :=
  s.runVmov .clear s.itCondition (.ok (bindD 0#1 (0#1 ++ cmode21 ++ 0#1) imm8 d))

/-- VMOV.I32 `<Qd>`, encoding T1 with `Q == 1` (R125). -/
def execVmovI32T1Q (cmode21 : BitVec 2) (q : QReg) (imm8 : BitVec 8) (s : State) : Outcome :=
  s.runVmov .clear s.itCondition (.ok (bindQ 0#1 (0#1 ++ cmode21 ++ 0#1) imm8 q))

/-- VMOV.I16 `<Dd>`, encoding T3 with `Q == 0` (R126). -/
def execVmovI16T3D (cmode1 : BitVec 1) (d : DReg) (imm8 : BitVec 8) (s : State) : Outcome :=
  s.runVmov .clear s.itCondition (.ok (bindD 0#1 (0b10#2 ++ cmode1 ++ 0#1) imm8 d))

/-- VMOV.I16 `<Qd>`, encoding T3 with `Q == 1` (R126). -/
def execVmovI16T3Q (cmode1 : BitVec 1) (q : QReg) (imm8 : BitVec 8) (s : State) : Outcome :=
  s.runVmov .clear s.itCondition (.ok (bindQ 0#1 (0b10#2 ++ cmode1 ++ 0#1) imm8 q))

/-- VMOV.I32 `<Dd>`, encoding T4 with `Q == 0` (R127). -/
def execVmovI32T4D (cmode0 : BitVec 1) (d : DReg) (imm8 : BitVec 8) (s : State) : Outcome :=
  s.runVmov .clear s.itCondition (.ok (bindD 0#1 (0b110#3 ++ cmode0) imm8 d))

/-- VMOV.I32 `<Qd>`, encoding T4 with `Q == 1` (R127). -/
def execVmovI32T4Q (cmode0 : BitVec 1) (q : QReg) (imm8 : BitVec 8) (s : State) : Outcome :=
  s.runVmov .clear s.itCondition (.ok (bindQ 0#1 (0b110#3 ++ cmode0) imm8 q))

/-- VMOV.I8 `<Dd>`, encoding T4 with `Q == 0` (R127). -/
def execVmovI8T4D (d : DReg) (imm8 : BitVec 8) (s : State) : Outcome :=
  s.runVmov .clear s.itCondition (.ok (bindD 0#1 0b1110#4 imm8 d))

/-- VMOV.I8 `<Qd>`, encoding T4 with `Q == 1` (R127). -/
def execVmovI8T4Q (q : QReg) (imm8 : BitVec 8) (s : State) : Outcome :=
  s.runVmov .clear s.itCondition (.ok (bindQ 0#1 0b1110#4 imm8 q))

/-- VMOV.F32 `<Dd>`, encoding T4 with `Q == 0` (R127). -/
def execVmovF32T4D (d : DReg) (imm8 : BitVec 8) (s : State) : Outcome :=
  s.runVmov .clear s.itCondition (.ok (bindD 0#1 0b1111#4 imm8 d))

/-- VMOV.F32 `<Qd>`, encoding T4 with `Q == 1` (R127). -/
def execVmovF32T4Q (q : QReg) (imm8 : BitVec 8) (s : State) : Outcome :=
  s.runVmov .clear s.itCondition (.ok (bindQ 0#1 0b1111#4 imm8 q))

/-- VMOV.I64 `<Dd>`, encoding T5 with `Q == 0` (R128). -/
def execVmovI64T5D (d : DReg) (imm8 : BitVec 8) (s : State) : Outcome :=
  s.runVmov .clear s.itCondition (.ok (bindD 1#1 0b1110#4 imm8 d))

/-- VMOV.I64 `<Qd>`, encoding T5 with `Q == 1` (R128). -/
def execVmovI64T5Q (q : QReg) (imm8 : BitVec 8) (s : State) : Outcome :=
  s.runVmov .clear s.itCondition (.ok (bindQ 1#1 0b1110#4 imm8 q))

/-- The T1 words with `Q == 1` and `Vd<0> == 1`: UNDEFINED (R89, R131). -/
def execUndefinedT1 (_cmode21 : BitVec 2) (_h : BitVec 4) (_imm8 : BitVec 8) (s : State) : Outcome :=
  s.runVmov .clear s.itCondition .undef

/-- The T3 words with `Q == 1` and `Vd<0> == 1`: UNDEFINED (R89, R131). -/
def execUndefinedT3 (_cmode1 : BitVec 1) (_h : BitVec 4) (_imm8 : BitVec 8) (s : State) : Outcome :=
  s.runVmov .clear s.itCondition .undef

/-- The T4 words with `Q == 1` and `Vd<0> == 1`: UNDEFINED (R89, R131). -/
def execUndefinedT4 (_cmode10 : BitVec 2) (_h : BitVec 4) (_imm8 : BitVec 8) (s : State) : Outcome :=
  s.runVmov .clear s.itCondition .undef

/-- The T5 words with `Q == 1` and `Vd<0> == 1`: UNDEFINED (R89, R131). -/
def execUndefinedT5 (_h : BitVec 4) (_imm8 : BitVec 8) (s : State) : Outcome :=
  s.runVmov .clear s.itCondition .undef

end Sys2Proof.Machine
end

