-- ==== Sys2Proof/Machine/Dispatch.lean ====
section
/-! DEFINITION. One arm per row of the opcode table, each one call of its meaning. -/

namespace Sys2Proof.Machine

def exec (i : Instr) (s : State) : Host.Outcome State Fault Refusal :=
  match i with
  | .vmovI32A1D cmode21 d imm8 => Sys2Proof.Machine.execVmovI32A1D cmode21 d imm8 s
  | .vmovI32A1Q cmode21 q imm8 => Sys2Proof.Machine.execVmovI32A1Q cmode21 q imm8 s
  | .vmovI16A3D cmode1 d imm8 => Sys2Proof.Machine.execVmovI16A3D cmode1 d imm8 s
  | .vmovI16A3Q cmode1 q imm8 => Sys2Proof.Machine.execVmovI16A3Q cmode1 q imm8 s
  | .vmovI32A4D cmode0 d imm8 => Sys2Proof.Machine.execVmovI32A4D cmode0 d imm8 s
  | .vmovI32A4Q cmode0 q imm8 => Sys2Proof.Machine.execVmovI32A4Q cmode0 q imm8 s
  | .vmovI8A4D d imm8 => Sys2Proof.Machine.execVmovI8A4D d imm8 s
  | .vmovI8A4Q q imm8 => Sys2Proof.Machine.execVmovI8A4Q q imm8 s
  | .vmovF32A4D d imm8 => Sys2Proof.Machine.execVmovF32A4D d imm8 s
  | .vmovF32A4Q q imm8 => Sys2Proof.Machine.execVmovF32A4Q q imm8 s
  | .vmovI64A5D d imm8 => Sys2Proof.Machine.execVmovI64A5D d imm8 s
  | .vmovI64A5Q q imm8 => Sys2Proof.Machine.execVmovI64A5Q q imm8 s
  | .undefinedA1 cmode21 h imm8 => Sys2Proof.Machine.execUndefinedA1 cmode21 h imm8 s
  | .undefinedA3 cmode1 h imm8 => Sys2Proof.Machine.execUndefinedA3 cmode1 h imm8 s
  | .undefinedA4 cmode10 h imm8 => Sys2Proof.Machine.execUndefinedA4 cmode10 h imm8 s
  | .undefinedA5 h imm8 => Sys2Proof.Machine.execUndefinedA5 h imm8 s
  | .vmovF16A2 cond d imm8 sbz => Sys2Proof.Machine.execVmovF16A2 cond d imm8 sbz s
  | .vmovF32A2 cond d imm8 sbz => Sys2Proof.Machine.execVmovF32A2 cond d imm8 sbz s
  | .vmovF64A2 cond d imm8 sbz => Sys2Proof.Machine.execVmovF64A2 cond d imm8 sbz s
  | .undefinedA2 cond dvd imm8 sbz => Sys2Proof.Machine.execUndefinedA2 cond dvd imm8 sbz s
  | .vmovI32T1D cmode21 d imm8 => Sys2Proof.Machine.execVmovI32T1D cmode21 d imm8 s
  | .vmovI32T1Q cmode21 q imm8 => Sys2Proof.Machine.execVmovI32T1Q cmode21 q imm8 s
  | .vmovI16T3D cmode1 d imm8 => Sys2Proof.Machine.execVmovI16T3D cmode1 d imm8 s
  | .vmovI16T3Q cmode1 q imm8 => Sys2Proof.Machine.execVmovI16T3Q cmode1 q imm8 s
  | .vmovI32T4D cmode0 d imm8 => Sys2Proof.Machine.execVmovI32T4D cmode0 d imm8 s
  | .vmovI32T4Q cmode0 q imm8 => Sys2Proof.Machine.execVmovI32T4Q cmode0 q imm8 s
  | .vmovI8T4D d imm8 => Sys2Proof.Machine.execVmovI8T4D d imm8 s
  | .vmovI8T4Q q imm8 => Sys2Proof.Machine.execVmovI8T4Q q imm8 s
  | .vmovF32T4D d imm8 => Sys2Proof.Machine.execVmovF32T4D d imm8 s
  | .vmovF32T4Q q imm8 => Sys2Proof.Machine.execVmovF32T4Q q imm8 s
  | .vmovI64T5D d imm8 => Sys2Proof.Machine.execVmovI64T5D d imm8 s
  | .vmovI64T5Q q imm8 => Sys2Proof.Machine.execVmovI64T5Q q imm8 s
  | .undefinedT1 cmode21 h imm8 => Sys2Proof.Machine.execUndefinedT1 cmode21 h imm8 s
  | .undefinedT3 cmode1 h imm8 => Sys2Proof.Machine.execUndefinedT3 cmode1 h imm8 s
  | .undefinedT4 cmode10 h imm8 => Sys2Proof.Machine.execUndefinedT4 cmode10 h imm8 s
  | .undefinedT5 h imm8 => Sys2Proof.Machine.execUndefinedT5 h imm8 s
  | .vmovF16T2 d imm8 sbz => Sys2Proof.Machine.execVmovF16T2 d imm8 sbz s
  | .vmovF32T2 d imm8 sbz => Sys2Proof.Machine.execVmovF32T2 d imm8 sbz s
  | .vmovF64T2 d imm8 sbz => Sys2Proof.Machine.execVmovF64T2 d imm8 sbz s
  | .undefinedT2 dvd imm8 sbz => Sys2Proof.Machine.execUndefinedT2 dvd imm8 sbz s

end Sys2Proof.Machine
end

