-- ==== Sys2Proof/Machine/Step.lean ====
section
/-! DEFINITION. One step of the PE (R13, R100), and the placing of a word where the next step fetches. -/

namespace Sys2Proof.Machine

/-- One step: step 0 of R100, the fetch at `pc` (R51, R52), the match against the ten patterns in the current instruction set,
and the instruction. -/
def step (s : State) : Host.Outcome State Fault Refusal :=
  match s.preCheck with
  | some r => .refused r
  | none =>
    match s.fetch with
    | .error r => .refused r
    | .ok bytes =>
      match decode s.iset bytes with
      | .error why => .refused (.notThisInstruction why)
      | .ok (i, _) => exec i s

/-- `s` with the word of a table row as the next instruction: its four bytes stored from `pc` on, in the byte order of the
instruction set it is read in, and CPSR.T selecting that set. (log 22) -/
def State.withFetchWord (s : State) (nbits w : Nat) : State :=
  { s with
    mem := placeBytes s.mem s.pc (layout (tableISet (tableWord nbits w)) (tableWord nbits w))
    cpsr := cpsrWithT s.cpsr (tableISet (tableWord nbits w)) }

end Sys2Proof.Machine
end

