-- ==== Sys2Proof/Machine/Assembly.lean ====
section
/-! DEFINITION. The assembler's view of an instruction, for reading and printing (R14, R94 to R99): data type, register
name, condition suffix, lane constant. No step uses it. -/

namespace Sys2Proof.Machine

/-- The data types of the templates (R94, R96). -/
inductive DataType where
  | i8 | i16 | i32 | i64 | f16 | f32 | f64
deriving DecidableEq, Repr

/-- The suffix a template writes (R94, R96). -/
def DataType.suffix : DataType → String
  | .i8 => "I8"
  | .i16 => "I16"
  | .i32 => "I32"
  | .i64 => "I64"
  | .f16 => "F16"
  | .f32 => "F32"
  | .f64 => "F64"

/-- The width of an element of the type: the lane of R130, or the scalar of R150. -/
def DataType.width : DataType → Nat
  | .i8 => 8
  | .i16 => 16
  | .i32 => 32
  | .i64 => 64
  | .f16 => 16
  | .f32 => 32
  | .f64 => 64

/-- Whether `<imm>` is written as a number with a fraction (R97, R98). -/
def DataType.isFloat : DataType → Bool
  | .i8 => false
  | .i16 => false
  | .i32 => false
  | .i64 => false
  | .f16 => true
  | .f32 => true
  | .f64 => true

/-- The condition suffix `<c>`; AL is written as nothing (R95, R102). -/
def condSuffix : Cond → String
  | .eq => "EQ"
  | .ne => "NE"
  | .cs => "CS"
  | .cc => "CC"
  | .mi => "MI"
  | .pl => "PL"
  | .vs => "VS"
  | .vc => "VC"
  | .hi => "HI"
  | .ls => "LS"
  | .ge => "GE"
  | .lt => "LT"
  | .gt => "GT"
  | .le => "LE"
  | .al => ""
  | .nv => ""

/-- A destination by its assembler name (R25, R96). -/
inductive AsmReg where
  | s (n : SReg)
  | d (n : DReg)
  | q (n : QReg)
deriving DecidableEq, Repr

/-- `Sn`, `Dn` or `Qn` (R96). -/
def AsmReg.text : AsmReg → String
  | .s n => "S" ++ toString n.toNat
  | .d n => "D" ++ toString n.toNat
  | .q n => "Q" ++ toString n.toNat

/-- An instruction as its template gives it (R94). -/
structure AsmForm where
  /-- The data type of the template or of the `<dt>` table (R96, R99). -/
  dt : DataType
  /-- The destination. -/
  reg : AsmReg
  /-- The condition the encoding itself holds: `cond` of A2, AL elsewhere (R95, R103). -/
  cond : Cond
  /-- Whether `<c>` may be other than AL: not for A1, A3, A4, A5 (R95), nor for a half-precision move (R90). -/
  mayBeConditional : Bool
  /-- The eight immediate bits. -/
  imm8 : BitVec 8
  /-- One element of the destination, in the low bits (R97, R98, R130). -/
  element : DWord
deriving DecidableEq, Repr

/-- The form of an Advanced SIMD instruction: the element is the low lane of the 64-bit constant (R130). -/
def simdForm (set : ISet) (dt : DataType) (op : BitVec 1) (cmode : BitVec 4) (reg : AsmReg) (imm8 : BitVec 8) : AsmForm :=
  { dt := dt
    reg := reg
    cond := .al
    mayBeConditional := set == .t32
    imm8 := imm8
    element := (advSIMDExpandImm op cmode imm8).extractLsb' 0 dt.width |>.setWidth 64 }

/-- The form of a floating-point instruction (R98). -/
def fpForm (dt : DataType) (cond : Cond) (reg : AsmReg) (imm8 : BitVec 8) (element : DWord) : AsmForm :=
  { dt := dt, reg := reg, cond := cond, mayBeConditional := dt != .f16, imm8 := imm8, element := element }

/-- The template of each row (R94); an UNDEFINED row has none. -/
def asmForm : Instr → Option AsmForm
  | .vmovI32A1D c d imm8 => some (simdForm .a32 .i32 0#1 (0#1 ++ c ++ 0#1) (.d d) imm8)
  | .vmovI32A1Q c q imm8 => some (simdForm .a32 .i32 0#1 (0#1 ++ c ++ 0#1) (.q q) imm8)
  | .vmovI16A3D c d imm8 => some (simdForm .a32 .i16 0#1 (0b10#2 ++ c ++ 0#1) (.d d) imm8)
  | .vmovI16A3Q c q imm8 => some (simdForm .a32 .i16 0#1 (0b10#2 ++ c ++ 0#1) (.q q) imm8)
  | .vmovI32A4D c d imm8 => some (simdForm .a32 .i32 0#1 (0b110#3 ++ c) (.d d) imm8)
  | .vmovI32A4Q c q imm8 => some (simdForm .a32 .i32 0#1 (0b110#3 ++ c) (.q q) imm8)
  | .vmovI8A4D d imm8 => some (simdForm .a32 .i8 0#1 0b1110#4 (.d d) imm8)
  | .vmovI8A4Q q imm8 => some (simdForm .a32 .i8 0#1 0b1110#4 (.q q) imm8)
  | .vmovF32A4D d imm8 => some (simdForm .a32 .f32 0#1 0b1111#4 (.d d) imm8)
  | .vmovF32A4Q q imm8 => some (simdForm .a32 .f32 0#1 0b1111#4 (.q q) imm8)
  | .vmovI64A5D d imm8 => some (simdForm .a32 .i64 1#1 0b1110#4 (.d d) imm8)
  | .vmovI64A5Q q imm8 => some (simdForm .a32 .i64 1#1 0b1110#4 (.q q) imm8)
  | .vmovF16A2 c d imm8 _ => some (fpForm .f16 c (.s d) imm8 ((vfpExpandImm16 imm8).setWidth 64))
  | .vmovF32A2 c d imm8 _ => some (fpForm .f32 c (.s d) imm8 ((vfpExpandImm32 imm8).setWidth 64))
  | .vmovF64A2 c d imm8 _ => some (fpForm .f64 c (.d d) imm8 (vfpExpandImm64 imm8))
  | .vmovI32T1D c d imm8 => some (simdForm .t32 .i32 0#1 (0#1 ++ c ++ 0#1) (.d d) imm8)
  | .vmovI32T1Q c q imm8 => some (simdForm .t32 .i32 0#1 (0#1 ++ c ++ 0#1) (.q q) imm8)
  | .vmovI16T3D c d imm8 => some (simdForm .t32 .i16 0#1 (0b10#2 ++ c ++ 0#1) (.d d) imm8)
  | .vmovI16T3Q c q imm8 => some (simdForm .t32 .i16 0#1 (0b10#2 ++ c ++ 0#1) (.q q) imm8)
  | .vmovI32T4D c d imm8 => some (simdForm .t32 .i32 0#1 (0b110#3 ++ c) (.d d) imm8)
  | .vmovI32T4Q c q imm8 => some (simdForm .t32 .i32 0#1 (0b110#3 ++ c) (.q q) imm8)
  | .vmovI8T4D d imm8 => some (simdForm .t32 .i8 0#1 0b1110#4 (.d d) imm8)
  | .vmovI8T4Q q imm8 => some (simdForm .t32 .i8 0#1 0b1110#4 (.q q) imm8)
  | .vmovF32T4D d imm8 => some (simdForm .t32 .f32 0#1 0b1111#4 (.d d) imm8)
  | .vmovF32T4Q q imm8 => some (simdForm .t32 .f32 0#1 0b1111#4 (.q q) imm8)
  | .vmovI64T5D d imm8 => some (simdForm .t32 .i64 1#1 0b1110#4 (.d d) imm8)
  | .vmovI64T5Q q imm8 => some (simdForm .t32 .i64 1#1 0b1110#4 (.q q) imm8)
  | .vmovF16T2 d imm8 _ => some (fpForm .f16 .al (.s d) imm8 ((vfpExpandImm16 imm8).setWidth 64))
  | .vmovF32T2 d imm8 _ => some (fpForm .f32 .al (.s d) imm8 ((vfpExpandImm32 imm8).setWidth 64))
  | .vmovF64T2 d imm8 _ => some (fpForm .f64 .al (.d d) imm8 (vfpExpandImm64 imm8))
  | .undefinedA1 _ _ _ | .undefinedA3 _ _ _ | .undefinedA4 _ _ _ | .undefinedA5 _ _ | .undefinedA2 _ _ _ _ => none
  | .undefinedT1 _ _ _ | .undefinedT3 _ _ _ | .undefinedT4 _ _ _ | .undefinedT5 _ _ | .undefinedT2 _ _ _ => none

/-- A whole number in hexadecimal, as R97 writes the integer constants, with no leading zero. DESIGN CHOICE (log 28): no rule
says how many digits a printed constant has. -/
def hexText (n : Nat) : String := "0x" ++ String.ofList ((Nat.toDigits 16 n).map Char.toUpper)

/-- Decimal digits with the trailing zeros dropped, one digit kept. -/
def trimZeros (digits : List Char) : List Char :=
  match digits.reverse.dropWhile (· == '0') with
  | [] => ['0']
  | kept => kept.reverse

/-- A number given as 128 times its value, in decimal: seven fraction digits are exact (R85, R98). -/
def decimalText (v128 : Int) : String :=
  let fraction := Nat.toDigits 10 (v128.natAbs % 128 * 10000000 / 128)
  (if v128 < 0 then "-" else "") ++ toString (v128.natAbs / 128) ++ "." ++
    String.ofList (trimZeros (List.replicate (7 - fraction.length) '0' ++ fraction))

/-- The line an assembler would read: mnemonic, `<c>`, data type, register, `<imm>` (R94 to R98). `it` is the condition an
enclosing IT block gives a T32 instruction, AL outside one (R95). -/
def AsmForm.text (it : Cond) (f : AsmForm) : String :=
  "VMOV" ++ condSuffix (if f.cond = .al then it else f.cond) ++ "." ++ f.dt.suffix ++ " " ++ f.reg.text ++ ", #" ++
    (if f.dt.isFloat then decimalText (vfpValue128 f.imm8) else hexText f.element.toNat)

end Sys2Proof.Machine
end

