-- ==== Sys2Proof/Safety.lean ====
section
/-! DEFINITION. What the claims call a good state, a completing step, and a run that has a final state (R11). -/

namespace Sys2Proof.Machine

/-- The states the architecture produces between two steps, as far as the spec says: `pc` aligned for the instruction set
(R29), an IT state that is not one of the refused ones (R32), a mode field that names a mode (R182), and memory in its
canonical form. -/
structure State.WellFormed (s : State) : Prop where
  aligned : s.misalignedPC = false
  itState : s.badITSTATE = false
  legalMode : s.mode.isSome = true
  memory : s.mem.wf = true

/-- Nothing in step 0 of R100 stops the step and the enable check answers `Enabled` (R100, R108, R201): with the condition
passed, an instruction with this `advsimd` whose decode raises nothing writes its register. -/
structure State.Ready (s : State) (advsimd : Bool) : Prop where
  preCheck : s.preCheck = none
  enabled : s.enableCheck advsimd = some .enabled

/-- FPSCR.Len and FPSCR.Stride are zero, as A2 and T2 require (R150, R202). -/
structure State.ScalarMode (s : State) : Prop where
  len : s.fpscrLen = 0#3
  stride : s.fpscrStride = 0#2

/-- The state after a step that completes, but for the SIMD&FP registers, which are `dregs` (R28, R40, R111): `pc + 4`, in T32
state `ITAdvance()`, and the model's draw of the step used up. Every other field is as it was. -/
def State.afterStep (s : State) (dregs : Vector DWord Config.numDRegs) : State :=
  { s with
    dregs := dregs
    pc := s.pc + 4#32
    cpsr := cpsrWithIT s.cpsr s.nextIT
    draws := s.draws.tail
    drawsTaken := s.drawsTaken + 1 }

/-- `k` steps lead from `s` to `t`, with neither a fault nor a refusal on the way: `t` may be the final state of a run (R11). -/
def Reaches (k : Nat) (s t : State) : Prop := Host.Core.run Sys2Proof.core k s = .next t

/-! The terms of the claims about instructions. -/

/-- Every lane of width `w` of a 64-bit value holds `lane` (R130). -/
def LanesAre (w : Nat) (v : DWord) (lane : BitVec w) : Prop := ∀ k, (k + 1) * w ≤ 64 → v.extractLsb' (k * w) w = lane

/-- The D registers with `v` in those whose number `which` picks, the others as they were (R23, R40). -/
def State.dregsWith (s : State) (which : Nat → Bool) (v : DWord) : Vector DWord Config.numDRegs :=
  Vector.ofFn fun k => if which k.val then v else s.dregs[k]

/-- The D registers with `v` in `S[n]`: its half of `D[n div 2]`, the other half and the other registers as they were
(R21, R24). -/
def State.dregsWithS (s : State) (n : SReg) (v : Word) : Vector DWord Config.numDRegs :=
  Vector.ofFn fun k =>
    if k.val = n.toNat / 2 then
      if n.toNat % 2 = 0 then s.dregs[k].extractLsb' 32 32 ++ v else v ++ s.dregs[k].extractLsb' 0 32
    else s.dregs[k]

/-- The condition the IT state gives the current T32 instruction holds (R104). -/
def State.ITPassed (s : State) : Prop := ∃ c, s.itCondition = some c ∧ s.conditionPassed c = true

/-- The current condition of an instruction: `cond` of A2, "always" for A1, A3, A4, A5 (R103), the IT state's in T32 (R104). -/
def currentCond (i : Instr) (s : State) : Option Cond :=
  match i with
  | .vmovF16A2 c _ _ _ | .vmovF32A2 c _ _ _ | .vmovF64A2 c _ _ _ | .undefinedA2 c _ _ _ => some c
  | i => match i.iset with | .a32 => some .al | .t32 => s.itCondition

/-- The two should-be-zero bits of an instruction; an Advanced SIMD word has none (R91, R120). -/
def sbzOf : Instr → SbzBits
  | .vmovF16A2 _ _ _ z | .vmovF32A2 _ _ _ z | .vmovF64A2 _ _ _ z | .undefinedA2 _ _ _ z => z
  | .vmovF16T2 _ _ z | .vmovF32T2 _ _ z | .vmovF64T2 _ _ z | .undefinedT2 _ _ z => z
  | _ => .clear

/-- The families of rows (R12, R72, R89). -/
inductive RowKind where
  /-- A VMOV row of A1, A3, A4, A5, T1, T3, T4, T5. -/
  | simd
  /-- A VMOV row of A2, T2 with `size == '01'`. -/
  | half
  /-- A VMOV row of A2, T2 with `size == '10'` or `'11'`. -/
  | scalar
  /-- A row that is UNDEFINED by its encoding alone. -/
  | undefinedRow
deriving DecidableEq, Repr

/-- The family of an instruction. -/
def rowKind : Instr → RowKind
  | .vmovI32A1D _ _ _ | .vmovI32A1Q _ _ _ | .vmovI16A3D _ _ _ | .vmovI16A3Q _ _ _ => .simd
  | .vmovI32A4D _ _ _ | .vmovI32A4Q _ _ _ | .vmovI8A4D _ _ | .vmovI8A4Q _ _ => .simd
  | .vmovF32A4D _ _ | .vmovF32A4Q _ _ | .vmovI64A5D _ _ | .vmovI64A5Q _ _ => .simd
  | .vmovI32T1D _ _ _ | .vmovI32T1Q _ _ _ | .vmovI16T3D _ _ _ | .vmovI16T3Q _ _ _ => .simd
  | .vmovI32T4D _ _ _ | .vmovI32T4Q _ _ _ | .vmovI8T4D _ _ | .vmovI8T4Q _ _ => .simd
  | .vmovF32T4D _ _ | .vmovF32T4Q _ _ | .vmovI64T5D _ _ | .vmovI64T5Q _ _ => .simd
  | .undefinedA1 _ _ _ | .undefinedA3 _ _ _ | .undefinedA4 _ _ _ | .undefinedA5 _ _ | .undefinedA2 _ _ _ _ => .undefinedRow
  | .undefinedT1 _ _ _ | .undefinedT3 _ _ _ | .undefinedT4 _ _ _ | .undefinedT5 _ _ | .undefinedT2 _ _ _ => .undefinedRow
  | .vmovF16A2 _ _ _ _ | .vmovF16T2 _ _ _ => .half
  | .vmovF32A2 _ _ _ _ | .vmovF32T2 _ _ _ | .vmovF64A2 _ _ _ _ | .vmovF64T2 _ _ _ => .scalar

/-- Whether an instruction may change `D[n]` at all: its destination, or the D register that holds its S register (R23). -/
def mayWrite (n : DReg) : Instr → Bool
  | .vmovI32A1D _ d _ | .vmovI16A3D _ d _ | .vmovI32A4D _ d _ | .vmovI8A4D d _ | .vmovF32A4D d _ | .vmovI64A5D d _ => n = d
  | .vmovI32T1D _ d _ | .vmovI16T3D _ d _ | .vmovI32T4D _ d _ | .vmovI8T4D d _ | .vmovF32T4D d _ | .vmovI64T5D d _ => n = d
  | .vmovI32A1Q _ q _ | .vmovI16A3Q _ q _ | .vmovI32A4Q _ q _ | .vmovI8A4Q q _ | .vmovF32A4Q q _ | .vmovI64A5Q q _ =>
    n.toNat / 2 = q.toNat
  | .vmovI32T1Q _ q _ | .vmovI16T3Q _ q _ | .vmovI32T4Q _ q _ | .vmovI8T4Q q _ | .vmovF32T4Q q _ | .vmovI64T5Q q _ =>
    n.toNat / 2 = q.toNat
  | .vmovF16A2 _ d _ _ | .vmovF16T2 d _ _ | .vmovF32A2 _ d _ _ | .vmovF32T2 d _ _ => n.toNat = d.toNat / 2
  | .vmovF64A2 _ d _ _ | .vmovF64T2 d _ _ => n = d
  | .undefinedA1 _ _ _ | .undefinedA3 _ _ _ | .undefinedA4 _ _ _ | .undefinedA5 _ _ | .undefinedA2 _ _ _ _ => false
  | .undefinedT1 _ _ _ | .undefinedT3 _ _ _ | .undefinedT4 _ _ _ | .undefinedT5 _ _ | .undefinedT2 _ _ _ => false

/-- The list of R89: the instruction is UNDEFINED by its encoding; or it is a half-precision move without FEAT_FP16; or it is a
floating-point move with FPSCR.Len or FPSCR.Stride not zero. -/
def UndefinedByDecode (i : Instr) (s : State) : Prop :=
  rowKind i = .undefinedRow ∨ (rowKind i = .half ∧ s.hasFP16 = false) ∨
    ((rowKind i = .half ∨ rowKind i = .scalar) ∧ (s.fpscrLen ≠ 0#3 ∨ s.fpscrStride ≠ 0#2))

/-- The 64-bit constant of an instruction that writes whole D registers (R87, R120, R150); the others have none. -/
def wholeConstant : Instr → Option DWord
  | .vmovI32A1D c _ m | .vmovI32A1Q c _ m | .vmovI32T1D c _ m | .vmovI32T1Q c _ m => some (advSIMDExpandImm 0#1 (0#1 ++ c ++ 0#1) m)
  | .vmovI16A3D c _ m | .vmovI16A3Q c _ m | .vmovI16T3D c _ m | .vmovI16T3Q c _ m =>
    some (advSIMDExpandImm 0#1 (0b10#2 ++ c ++ 0#1) m)
  | .vmovI32A4D c _ m | .vmovI32A4Q c _ m | .vmovI32T4D c _ m | .vmovI32T4Q c _ m => some (advSIMDExpandImm 0#1 (0b110#3 ++ c) m)
  | .vmovI8A4D _ m | .vmovI8A4Q _ m | .vmovI8T4D _ m | .vmovI8T4Q _ m => some (advSIMDExpandImm 0#1 0b1110#4 m)
  | .vmovF32A4D _ m | .vmovF32A4Q _ m | .vmovF32T4D _ m | .vmovF32T4Q _ m => some (advSIMDExpandImm 0#1 0b1111#4 m)
  | .vmovI64A5D _ m | .vmovI64A5Q _ m | .vmovI64T5D _ m | .vmovI64T5Q _ m => some (advSIMDExpandImm 1#1 0b1110#4 m)
  | .vmovF64A2 _ _ m _ | .vmovF64T2 _ m _ => some (vfpExpandImm64 m)
  | .undefinedA1 _ _ _ | .undefinedA3 _ _ _ | .undefinedA4 _ _ _ | .undefinedA5 _ _ | .undefinedA2 _ _ _ _ => none
  | .undefinedT1 _ _ _ | .undefinedT3 _ _ _ | .undefinedT4 _ _ _ | .undefinedT5 _ _ | .undefinedT2 _ _ _ => none
  | .vmovF16A2 _ _ _ _ | .vmovF16T2 _ _ _ | .vmovF32A2 _ _ _ _ | .vmovF32T2 _ _ _ => none

/-- An outcome with a function applied to the next state, a fault or refusal as it is: how two runs are compared. -/
def mapNext (f : State → State) : Outcome → Outcome
  | .next t => .next (f t)
  | .fault r => .fault r
  | .refused r => .refused r

/-- The state with CPSR.DIT inverted (R38). -/
def State.flipDIT (s : State) : State := { s with cpsr := s.cpsr ^^^ 0x00200000#32 }

end Sys2Proof.Machine
end

