-- ==== Sys2Proof/Certificates/Slice0/Obligations.lean ====
section
/-! DEFINITION. The statements, from the numbered rules of spec/: encoding, the step, the invariant, each instruction's
result, faults and refusals, and what the machine does not depend on. -/

open Sys2Proof Sys2Proof.Machine

/-! ## Encoding -/

/-- Decoding the encoding of any well-formed instruction gives it back, with no byte left over (R65 to R80, R86, R91). -/
def Obligations.DecodeOfEncodeGivesTheInstruction : Prop :=
  ∀ i : Instr, i.wellFormed = true → decode i.iset (encode i) = .ok (i, [])

/-- A word that decodes to a well-formed instruction is that instruction's encoding: each word has one meaning. -/
def Obligations.EncodeOfDecodeGivesTheWord : Prop :=
  (∀ (w : Word) (i : Instr), decodeA32 w = .ok i → i.wellFormed = true → encodeWord i = w ∧ i.iset = .a32) ∧
    (∀ (w : Word) (i : Instr), decodeT32 w = .ok i → i.wellFormed = true → encodeWord i = w ∧ i.iset = .t32)

/-- An A32 word is VMOV (immediate) exactly when one of the five mask and match pairs of R71 to R75 fits, with
`w[31:28] != '1111'` for A2. -/
def Obligations.A32WordsAcceptedAreTheFivePatterns : Prop :=
  ∀ w : Word, (∃ i, decodeA32 w = .ok i) ↔
    (w &&& 0xFEB809B0#32 = 0xF2800010#32 ∨
      (w &&& 0x0FB00C50#32 = 0x0EB00800#32 ∧ w.extractLsb' 28 4 ≠ 0b1111#4) ∨
      w &&& 0xFEB80DB0#32 = 0xF2800810#32 ∨ w &&& 0xFEB80CB0#32 = 0xF2800C10#32 ∨
      w &&& 0xFEB80FB0#32 = 0xF2800E30#32)

/-- A T32 pair is VMOV (immediate) exactly when one of the five mask and match pairs of R76 to R80 fits. -/
def Obligations.T32PairsAcceptedAreTheFivePatterns : Prop :=
  ∀ w : Word, (∃ i, decodeT32 w = .ok i) ↔
    (w &&& 0xEFB809B0#32 = 0xEF800010#32 ∨ w &&& 0xFFB00C50#32 = 0xEEB00800#32 ∨
      w &&& 0xEFB80DB0#32 = 0xEF800810#32 ∨ w &&& 0xEFB80CB0#32 = 0xEF800C10#32 ∨
      w &&& 0xEFB80FB0#32 = 0xEF800E30#32)

/-- The words of A1, A3, A4 and A5 as R121 to R124 assemble them, with `imm8 = i:imm3:imm4`: the register `D:Vd` and `Q == 0`; the
register `D:Vd`, even, and `Q == 1`; and, for the rows that R89 makes UNDEFINED, `D:Vd` odd and `Q == 1`. -/
def Obligations.A32SimdWordsAreAssembledAsWritten : Prop :=
  ∀ (c : BitVec 2) (e : BitVec 1) (d : DReg) (q : QReg) (h : BitVec 4) (i : BitVec 1) (imm3 : BitVec 3) (imm4 : BitVec 4),
    let fields : BitVec 5 → Word := fun dvd => ((i.setWidth 32 <<< 24) ||| ((dvd >>> 4).setWidth 32 <<< 22) |||
      (imm3.setWidth 32 <<< 16) ||| ((dvd.extractLsb' 0 4).setWidth 32 <<< 12) ||| imm4.setWidth 32)
    let quad : BitVec 5 → Word := fun dvd => fields dvd ||| (1#32 <<< 6)
    (encodeWord (.vmovI32A1D c d (i ++ imm3 ++ imm4)) = 0xF2800010#32 ||| fields d ||| (c.setWidth 32 <<< 9) ∧
      encodeWord (.vmovI16A3D e d (i ++ imm3 ++ imm4)) = 0xF2800810#32 ||| fields d ||| (e.setWidth 32 <<< 9) ∧
      encodeWord (.vmovI32A4D e d (i ++ imm3 ++ imm4)) = 0xF2800C10#32 ||| fields d ||| (e.setWidth 32 <<< 8) ∧
      encodeWord (.vmovI8A4D d (i ++ imm3 ++ imm4)) = 0xF2800C10#32 ||| fields d ||| (2#32 <<< 8) ∧
      encodeWord (.vmovF32A4D d (i ++ imm3 ++ imm4)) = 0xF2800C10#32 ||| fields d ||| (3#32 <<< 8) ∧
      encodeWord (.vmovI64A5D d (i ++ imm3 ++ imm4)) = 0xF2800E30#32 ||| fields d) ∧
    (encodeWord (.vmovI32A1Q c q (i ++ imm3 ++ imm4)) = 0xF2800010#32 ||| quad (q ++ 0#1) ||| (c.setWidth 32 <<< 9) ∧
      encodeWord (.vmovI16A3Q e q (i ++ imm3 ++ imm4)) = 0xF2800810#32 ||| quad (q ++ 0#1) ||| (e.setWidth 32 <<< 9) ∧
      encodeWord (.vmovI32A4Q e q (i ++ imm3 ++ imm4)) = 0xF2800C10#32 ||| quad (q ++ 0#1) ||| (e.setWidth 32 <<< 8) ∧
      encodeWord (.vmovI8A4Q q (i ++ imm3 ++ imm4)) = 0xF2800C10#32 ||| quad (q ++ 0#1) ||| (2#32 <<< 8) ∧
      encodeWord (.vmovF32A4Q q (i ++ imm3 ++ imm4)) = 0xF2800C10#32 ||| quad (q ++ 0#1) ||| (3#32 <<< 8) ∧
      encodeWord (.vmovI64A5Q q (i ++ imm3 ++ imm4)) = 0xF2800E30#32 ||| quad (q ++ 0#1)) ∧
    (encodeWord (.undefinedA1 c h (i ++ imm3 ++ imm4)) = 0xF2800010#32 ||| quad (h ++ 1#1) ||| (c.setWidth 32 <<< 9) ∧
      encodeWord (.undefinedA3 e h (i ++ imm3 ++ imm4)) = 0xF2800810#32 ||| quad (h ++ 1#1) ||| (e.setWidth 32 <<< 9) ∧
      encodeWord (.undefinedA4 c h (i ++ imm3 ++ imm4)) = 0xF2800C10#32 ||| quad (h ++ 1#1) ||| (c.setWidth 32 <<< 8) ∧
      encodeWord (.undefinedA5 h (i ++ imm3 ++ imm4)) = 0xF2800E30#32 ||| quad (h ++ 1#1))

/-- The words of A2: the three moves as R151 to R153 assemble them, and the row `size == '00'`, UNDEFINED (R89), by the pattern of
R72. -/
def Obligations.A2WordsAreAssembledAsWritten : Prop :=
  ∀ (c : Cond) (vd : BitVec 4) (dbit : BitVec 1) (h l : BitVec 4) (z : SbzBits),
    let fields : Word := ((c.toBits.setWidth 32 <<< 28) ||| (dbit.setWidth 32 <<< 22) ||| (h.setWidth 32 <<< 16) |||
      (vd.setWidth 32 <<< 12) ||| l.setWidth 32)
    encodeWord (.vmovF16A2 c (vd ++ dbit) (h ++ l) z) = 0x0EB00900#32 ||| fields ∧
      encodeWord (.vmovF32A2 c (vd ++ dbit) (h ++ l) z) = 0x0EB00A00#32 ||| fields ∧
      encodeWord (.vmovF64A2 c (dbit ++ vd) (h ++ l) z) = 0x0EB00B00#32 ||| fields ∧
      encodeWord (.undefinedA2 c (dbit ++ vd) (h ++ l) z) = 0x0EB00800#32 ||| fields

/-- The relation of R81(b) between the sets, for each of the twenty T32 rows: the pair of a row of T1, T3, T4 or T5, an UNDEFINED
one too, is the word of the row of A1, A3, A4 or A5 with the same operands, rewritten; and the pair of a row of T2 is the word of
that row of A2 with its condition, whichever it is, rewritten. -/
def Obligations.T32PairsAreA32WordsRewritten : Prop :=
  (∀ (c : BitVec 2) (e : BitVec 1) (d : DReg) (q : QReg) (h : BitVec 4) (m : BitVec 8),
      let twin : Word → Word := fun w => (w &&& 0x00FFFFFF#32) ||| 0xEF000000#32 ||| ((w.extractLsb' 24 1).setWidth 32 <<< 28)
      encodeWord (.vmovI32T1D c d m) = twin (encodeWord (.vmovI32A1D c d m)) ∧
        encodeWord (.vmovI32T1Q c q m) = twin (encodeWord (.vmovI32A1Q c q m)) ∧
        encodeWord (.undefinedT1 c h m) = twin (encodeWord (.undefinedA1 c h m)) ∧
        encodeWord (.vmovI16T3D e d m) = twin (encodeWord (.vmovI16A3D e d m)) ∧
        encodeWord (.vmovI16T3Q e q m) = twin (encodeWord (.vmovI16A3Q e q m)) ∧
        encodeWord (.undefinedT3 e h m) = twin (encodeWord (.undefinedA3 e h m)) ∧
        encodeWord (.vmovI32T4D e d m) = twin (encodeWord (.vmovI32A4D e d m)) ∧
        encodeWord (.vmovI32T4Q e q m) = twin (encodeWord (.vmovI32A4Q e q m)) ∧
        encodeWord (.vmovI8T4D d m) = twin (encodeWord (.vmovI8A4D d m)) ∧
        encodeWord (.vmovI8T4Q q m) = twin (encodeWord (.vmovI8A4Q q m)) ∧
        encodeWord (.vmovF32T4D d m) = twin (encodeWord (.vmovF32A4D d m)) ∧
        encodeWord (.vmovF32T4Q q m) = twin (encodeWord (.vmovF32A4Q q m)) ∧
        encodeWord (.undefinedT4 c h m) = twin (encodeWord (.undefinedA4 c h m)) ∧
        encodeWord (.vmovI64T5D d m) = twin (encodeWord (.vmovI64A5D d m)) ∧
        encodeWord (.vmovI64T5Q q m) = twin (encodeWord (.vmovI64A5Q q m)) ∧
        encodeWord (.undefinedT5 h m) = twin (encodeWord (.undefinedA5 h m))) ∧
    (∀ (c : Cond) (d : BitVec 5) (m : BitVec 8) (z : SbzBits),
      let twin : Word → Word := fun w => (w &&& 0x0FFFFFFF#32) ||| 0xE0000000#32
      encodeWord (.vmovF16T2 d m z) = twin (encodeWord (.vmovF16A2 c d m z)) ∧
        encodeWord (.vmovF32T2 d m z) = twin (encodeWord (.vmovF32A2 c d m z)) ∧
        encodeWord (.vmovF64T2 d m z) = twin (encodeWord (.vmovF64A2 c d m z)) ∧
        encodeWord (.undefinedT2 d m z) = twin (encodeWord (.undefinedA2 c d m z)))

/-- Every instruction is four bytes long, in both sets; a T32 instruction is `hw1` and then `hw2`, each stored the same way (R65). -/
def Obligations.EveryEncodingIsFourBytes : Prop :=
  (∀ i : Instr, (encode i).length = 4) ∧
    (∀ (set : ISet) (bytes rest : List Byte) (i : Instr), decode set bytes = .ok (i, rest) → bytes.length = rest.length + 4) ∧
    ∃ store : Halfword → List Byte, (∀ h, (store h).length = 2) ∧ ∀ i : Instr, i.iset = .t32 →
      encode i = store ((encodeWord i).extractLsb' 16 16) ++ store ((encodeWord i).extractLsb' 0 16)

/-- The destination number (R86): an Advanced SIMD instruction names `D[D:Vd]`, or for `Q == 1` `Q[D:Vd / 2]` with `D:Vd` even; A2
and T2 name `D[D:Vd]` for `size == '11'`, else `S[Vd:D]`. `asmForm` holds the destination an instruction names. -/
def Obligations.DestinationNumbersAreReadFromTheirFields : Prop :=
  ∀ (set : ISet) (w : Word) (i : Instr) (f : AsmForm), (match set with | .a32 => decodeA32 w | .t32 => decodeT32 w) = .ok i →
    asmForm i = some f →
    let dvd : BitVec 5 := w.extractLsb' 22 1 ++ w.extractLsb' 12 4
    let vdd : BitVec 5 := w.extractLsb' 12 4 ++ w.extractLsb' 22 1
    if rowKind i = .simd then
      (w.getLsbD 6 = false → f.reg = .d dvd) ∧
        (w.getLsbD 6 = true → dvd.toNat % 2 = 0 ∧ f.reg = .q (BitVec.ofNat 4 (dvd.toNat / 2)))
    else
      (w.extractLsb' 8 2 = 0b11#2 → f.reg = .d dvd) ∧ (w.extractLsb' 8 2 ≠ 0b11#2 → f.reg = .s vdd)

/-- Six words written out from the spec's encodings decode to the instructions they stand for (95_test_vectors.md 2.1). -/
def Obligations.WordsOfTheWorkedExamplesDecode : Prop :=
  decodeA32 0xF382121B#32 = .ok (.vmovI32A1D 1#2 1#5 0xAB#8) ∧
    decodeA32 0xF3C7FE7F#32 = .ok (.undefinedA5 0b1111#4 0xFF#8) ∧
    decodeA32 0xEEF80B04#32 = .ok (.vmovF64A2 .al 16#5 0x84#8 .clear) ∧
    decodeT32 0xFF82121B#32 = .ok (.vmovI32T1D 1#2 1#5 0xAB#8) ∧
    decodeT32 0xFFC0EA50#32 = .ok (.vmovI16T3Q 1#1 15#4 0x80#8) ∧
    decodeT32 0xEEFFFA00#32 = .ok (.vmovF32T2 31#5 0xF0#8 .clear)

/-! ## The step -/

/-- When nothing in step 0 stops it and the bytes at `pc` decode to an instruction, a step is that instruction (R13, R100). Which
bytes make the word (R51 to R53): with `b0` to `b3` at `pc` to `pc + 3`, an A32 step matches `b3:b2:b1:b0`, and a T32 step whose
first halfword `b1:b0` begins a 32-bit instruction (R93) matches the pair `(b1:b0):(b3:b2)`; it runs what the word decodes to, or
refuses for the reason it does not. The byte order is the spec's decision, presumed (log 11). -/
def Obligations.StepRunsTheDecodedInstruction : Prop :=
  ∀ s : State, s.preCheck = none →
    (∀ (bytes rest : List Byte) (i : Instr), s.fetch = .ok bytes → decode s.iset bytes = .ok (i, rest) → step s = exec i s) ∧
      ∀ b0 b1 b2 b3 : Byte, s.mem.read s.pc.toNat = some b0 → s.mem.read (s.pc.toNat + 1) = some b1 →
        s.mem.read (s.pc.toNat + 2) = some b2 → s.mem.read (s.pc.toNat + 3) = some b3 →
          (s.iset = .a32 →
            (∀ i, decodeA32 (b3 ++ b2 ++ b1 ++ b0) = .ok i → step s = exec i s) ∧
              ∀ why, decodeA32 (b3 ++ b2 ++ b1 ++ b0) = .error why → step s = .refused (.notThisInstruction why)) ∧
            (s.iset = .t32 → isLongT32 (b1 ++ b0) = true →
              (∀ i, decodeT32 ((b1 ++ b0) ++ (b3 ++ b2)) = .ok i → step s = exec i s) ∧
                ∀ why, decodeT32 ((b1 ++ b0) ++ (b3 ++ b2)) = .error why → step s = .refused (.notThisInstruction why))

/-- A word placed by `withFetchWord` is the instruction of the next step, wherever `pc` is, when step 0 stops nothing. -/
def Obligations.PlacedWordRunsNext : Prop :=
  ∀ (s : State) (nbits w : Nat) (i : Instr), decodeTableWord nbits w = some i →
    (s.withFetchWord nbits w).preCheck = none → step (s.withFetchWord nbits w) = exec i (s.withFetchWord nbits w)

/-- Step 0 of R100 in its order, each test on the state itself (R29, R32): a misaligned `pc`, then a `pc` from which
`pc + 4` exceeds `0xFFFFFFFF`, then an IT state the architecture does not produce. -/
def Obligations.StepZeroRefusesInItsOrder : Prop :=
  ∀ s : State,
    let misaligned : Prop := (s.iset = .a32 ∧ s.pc.toNat % 4 ≠ 0) ∨ (s.iset = .t32 ∧ s.pc.toNat % 2 ≠ 0)
    let wraps : Prop := 0xFFFFFFFC ≤ s.pc.toNat
    let badIT : Prop := (s.iset = .a32 ∧ s.itState ≠ 0#8) ∨
      (s.iset = .t32 ∧ s.itState.toNat % 16 = 0 ∧ 16 ≤ s.itState.toNat)
    (misaligned → step s = .refused .misalignedPC) ∧
      (¬ misaligned → wraps → step s = .refused .pcWrap) ∧
      (¬ misaligned → ¬ wraps → badIT → step s = .refused .badITSTATE) ∧
      (¬ misaligned → ¬ wraps → ¬ badIT → s.preCheck = none)

/-- A word that is none of the ten patterns is refused as such (R11, R92), and so is a T32 halfword that begins no 32-bit
instruction, whatever follows it (R93). The first byte of the instruction that is not there is refused as no program text: any
of the four in A32 state; in T32 state the first two, and the other two after a halfword that begins a 32-bit instruction. That
a missing byte ends the run so is the model's choice (log 12; R57 puts it outside the model); which byte of a halfword is its
high one is log 11's. -/
def Obligations.StepRefusesWhatIsNotThisInstruction : Prop :=
  (∀ (s : State) (bytes : List Byte) (why : NotThis), s.preCheck = none → s.fetch = .ok bytes →
      decode s.iset bytes = .error why → step s = .refused (.notThisInstruction why)) ∧
    (∀ (s : State) (b0 b1 : Byte), s.preCheck = none → s.iset = .t32 → s.mem.read s.pc.toNat = some b0 →
      s.mem.read (s.pc.toNat + 1) = some b1 → isLongT32 (b1 ++ b0) = false → step s = .refused (.notThisInstruction .shortT32)) ∧
    ∀ (s : State) (k : Nat), s.preCheck = none → k < 4 →
      s.iset = .a32 ∨ k < 2 ∨ (∃ b0 b1 : Byte, s.mem.read s.pc.toNat = some b0 ∧ s.mem.read (s.pc.toNat + 1) = some b1 ∧
        isLongT32 (b1 ++ b0) = true) →
      (∀ j, j < k → s.mem.read (s.pc.toNat + j) ≠ none) → s.mem.read (s.pc.toNat + k) = none →
        step s = .refused (.noProgramText (s.pc + BitVec.ofNat 32 k))

/-- Every step keeps a state well-formed: `pc` aligned, the IT state one the architecture produces, the mode legal, memory
canonical. -/
def Obligations.EveryStepKeepsTheStateWellFormed : Prop :=
  ∀ s t : State, s.WellFormed → step s = .next t → t.WellFormed

/-- The state after reset is well-formed, and no program text is placed in it: the first step is refused. The reset values are
the model's choice (log 12, log 17, log 22). -/
def Obligations.ResetIsWellFormedAndHoldsNoProgram : Prop :=
  State.reset.WellFormed ∧ step State.reset = .refused (.noProgramText State.reset.pc)

/-- The frame of every step (R28, R40): whatever the instruction, a next state differs from the state before at most in the
SIMD&FP registers, in `pc`, which is four higher with no wrap, in T32 state in the bits of ITSTATE, and in the model's draws
(log 6). The last clause but one is `ITAdvance()` (R32) on CPSR itself: with T (bit 5) set, ITSTATE, which is CPSR 15:10 and
26:25, becomes zero when its low three bits are, and else keeps its high three bits and has its low five shifted left by one. -/
def Obligations.EveryStepFrames : Prop :=
  ∀ s t : State, step s = .next t →
    t = { s with dregs := t.dregs, pc := t.pc, cpsr := t.cpsr, draws := s.draws.tail, drawsTaken := s.drawsTaken + 1 } ∧
      t.pc.toNat = s.pc.toNat + 4 ∧
      (∀ k, ¬(10 ≤ k ∧ k < 16) → ¬(25 ≤ k ∧ k < 27) → t.cpsr.getLsbD k = s.cpsr.getLsbD k) ∧
      (s.iset = .a32 → t.cpsr = s.cpsr) ∧
      (s.iset = .t32 → t.itState = itAdvance s.itState) ∧
      (s.cpsr.getLsbD 5 = true →
        let before : BitVec 8 := s.cpsr.extractLsb' 10 6 ++ s.cpsr.extractLsb' 25 2
        let after : BitVec 8 := t.cpsr.extractLsb' 10 6 ++ t.cpsr.extractLsb' 25 2
        (before.extractLsb' 0 3 = 0#3 → after = 0#8) ∧
          (before.extractLsb' 0 3 ≠ 0#3 → after.extractLsb' 5 3 = before.extractLsb' 5 3 ∧
            after.extractLsb' 0 5 = before.extractLsb' 0 5 <<< 1)) ∧
      ∀ a : Nat, t.mem.read a = s.mem.read a

/-- No instruction changes a D register other than its destination, or the one that holds its S register (R23, R40). -/
def Obligations.NoInstructionWritesAnotherRegister : Prop :=
  ∀ (i : Instr) (s t : State) (n : DReg), exec i s = .next t → mayWrite n i = false → t.readD n = s.readD n

/-- A fault records the `pc` of the instruction and no other fault exists (R11, R174, R178). -/
def Obligations.EveryFaultRecordsThePc : Prop :=
  ∀ (s : State) (f : Fault), step s = .fault f → f = .undefined s.pc ∨ f = .hypTrap s.pc

/-- The reasons an instruction is refused for are the five of R11. -/
def Obligations.RefusalsOfAnInstructionAreTheFive : Prop :=
  ∀ (i : Instr) (s : State) (r : Refusal), exec i s = .refused r →
    r = .unpredictable ∨ r = .shouldBeZero ∨ r = .misalignedPC ∨ r = .pcWrap ∨ r = .badITSTATE

/-- Along a run of any length: `pc` advances by four each step, and the control registers, the Security state, the flags, the
mode, the instruction set and memory are those of the start (R28, R40, R186). -/
def Obligations.RunsAdvanceThePcAndKeepTheControls : Prop :=
  ∀ (k : Nat) (s t : State), Reaches k s t →
    t.pc.toNat = s.pc.toNat + 4 * k ∧ t.drawsTaken = s.drawsTaken + k ∧
      t = { s with dregs := t.dregs, pc := t.pc, cpsr := t.cpsr, draws := t.draws, drawsTaken := t.drawsTaken } ∧
      t.flagN = s.flagN ∧ t.flagZ = s.flagZ ∧ t.flagC = s.flagC ∧ t.flagV = s.flagV ∧ t.modeBits = s.modeBits ∧
      t.iset = s.iset

/-! ## The results of the Advanced SIMD rows -/

/-- A1 (R121): each 32-bit lane holds imm8 shifted left by 0, 8, 16 or 24 bits; one D register, or the two of a Q register. -/
def Obligations.A1WritesShiftedBytesIn32BitLanes : Prop :=
  ∀ (c : BitVec 2) (m : BitVec 8) (s : State), s.Ready true → ∃ v : DWord,
    LanesAre 32 v (m.setWidth 32 <<< (8 * c.toNat)) ∧
      (∀ d, exec (.vmovI32A1D c d m) s = .next (s.afterStep (s.dregsWith (· == d.toNat) v))) ∧
      ∀ q, exec (.vmovI32A1Q c q m) s = .next (s.afterStep (s.dregsWith (· / 2 == q.toNat) v))

/-- A3 (R122): each 16-bit lane holds imm8 in its low or its high byte. -/
def Obligations.A3WritesShiftedBytesIn16BitLanes : Prop :=
  ∀ (c : BitVec 1) (m : BitVec 8) (s : State), s.Ready true → ∃ v : DWord,
    LanesAre 16 v (m.setWidth 16 <<< (8 * c.toNat)) ∧
      (∀ d, exec (.vmovI16A3D c d m) s = .next (s.afterStep (s.dregsWith (· == d.toNat) v))) ∧
      ∀ q, exec (.vmovI16A3Q c q m) s = .next (s.afterStep (s.dregsWith (· / 2 == q.toNat) v))

/-- A4 (R123): 32-bit lanes `0x0000XYFF` or `0x00XYFFFF`, bytes `0xXY`, or the single-precision constant of R85. -/
def Obligations.A4WritesOnesFilledByteOrSingleLanes : Prop :=
  ∀ (m : BitVec 8) (s : State), s.Ready true →
    (∀ c : BitVec 1, ∃ v : DWord,
      LanesAre 32 v (if c = 0#1 then (m.setWidth 32 <<< 8) ||| 0xFF#32 else (m.setWidth 32 <<< 16) ||| 0xFFFF#32) ∧
        (∀ d, exec (.vmovI32A4D c d m) s = .next (s.afterStep (s.dregsWith (· == d.toNat) v))) ∧
        ∀ q, exec (.vmovI32A4Q c q m) s = .next (s.afterStep (s.dregsWith (· / 2 == q.toNat) v))) ∧
    (∃ v : DWord, LanesAre 8 v m ∧
        (∀ d, exec (.vmovI8A4D d m) s = .next (s.afterStep (s.dregsWith (· == d.toNat) v))) ∧
        ∀ q, exec (.vmovI8A4Q q m) s = .next (s.afterStep (s.dregsWith (· / 2 == q.toNat) v))) ∧
    ∃ v : DWord, LanesAre 32 v (vfpExpandImm32 m) ∧
        (∀ d, exec (.vmovF32A4D d m) s = .next (s.afterStep (s.dregsWith (· == d.toNat) v))) ∧
        ∀ q, exec (.vmovF32A4Q q m) s = .next (s.afterStep (s.dregsWith (· / 2 == q.toNat) v))

/-- A5 (R124): byte `k` of the constant is `0xFF` when `imm8[k] == 1` and `0x00` otherwise; a Q register holds it twice. -/
def Obligations.A5WritesOneByteForEachImmediateBit : Prop :=
  ∀ (m : BitVec 8) (s : State), s.Ready true → ∃ v : DWord,
    (∀ k, k < 8 → v.extractLsb' (8 * k) 8 = if m.getLsbD k then 0xFF#8 else 0x00#8) ∧
      (∀ d, exec (.vmovI64A5D d m) s = .next (s.afterStep (s.dregsWith (· == d.toNat) v))) ∧
      ∀ q, exec (.vmovI64A5Q q m) s = .next (s.afterStep (s.dregsWith (· / 2 == q.toNat) v))

/-- T1 (R125): as A1, when the condition of the IT state holds (R104). -/
def Obligations.T1WritesShiftedBytesIn32BitLanes : Prop :=
  ∀ (c : BitVec 2) (m : BitVec 8) (s : State), s.Ready true → s.ITPassed → ∃ v : DWord,
    LanesAre 32 v (m.setWidth 32 <<< (8 * c.toNat)) ∧
      (∀ d, exec (.vmovI32T1D c d m) s = .next (s.afterStep (s.dregsWith (· == d.toNat) v))) ∧
      ∀ q, exec (.vmovI32T1Q c q m) s = .next (s.afterStep (s.dregsWith (· / 2 == q.toNat) v))

/-- T3 (R126): as A3, when the condition of the IT state holds (R104). -/
def Obligations.T3WritesShiftedBytesIn16BitLanes : Prop :=
  ∀ (c : BitVec 1) (m : BitVec 8) (s : State), s.Ready true → s.ITPassed → ∃ v : DWord,
    LanesAre 16 v (m.setWidth 16 <<< (8 * c.toNat)) ∧
      (∀ d, exec (.vmovI16T3D c d m) s = .next (s.afterStep (s.dregsWith (· == d.toNat) v))) ∧
      ∀ q, exec (.vmovI16T3Q c q m) s = .next (s.afterStep (s.dregsWith (· / 2 == q.toNat) v))

/-- T4 (R127): as A4, when the condition of the IT state holds (R104). -/
def Obligations.T4WritesOnesFilledByteOrSingleLanes : Prop :=
  ∀ (m : BitVec 8) (s : State), s.Ready true → s.ITPassed →
    (∀ c : BitVec 1, ∃ v : DWord,
      LanesAre 32 v (if c = 0#1 then (m.setWidth 32 <<< 8) ||| 0xFF#32 else (m.setWidth 32 <<< 16) ||| 0xFFFF#32) ∧
        (∀ d, exec (.vmovI32T4D c d m) s = .next (s.afterStep (s.dregsWith (· == d.toNat) v))) ∧
        ∀ q, exec (.vmovI32T4Q c q m) s = .next (s.afterStep (s.dregsWith (· / 2 == q.toNat) v))) ∧
    (∃ v : DWord, LanesAre 8 v m ∧
        (∀ d, exec (.vmovI8T4D d m) s = .next (s.afterStep (s.dregsWith (· == d.toNat) v))) ∧
        ∀ q, exec (.vmovI8T4Q q m) s = .next (s.afterStep (s.dregsWith (· / 2 == q.toNat) v))) ∧
    ∃ v : DWord, LanesAre 32 v (vfpExpandImm32 m) ∧
        (∀ d, exec (.vmovF32T4D d m) s = .next (s.afterStep (s.dregsWith (· == d.toNat) v))) ∧
        ∀ q, exec (.vmovF32T4Q q m) s = .next (s.afterStep (s.dregsWith (· / 2 == q.toNat) v))

/-- T5 (R128): as A5, when the condition of the IT state holds (R104). -/
def Obligations.T5WritesOneByteForEachImmediateBit : Prop :=
  ∀ (m : BitVec 8) (s : State), s.Ready true → s.ITPassed → ∃ v : DWord,
    (∀ k, k < 8 → v.extractLsb' (8 * k) 8 = if m.getLsbD k then 0xFF#8 else 0x00#8) ∧
      (∀ d, exec (.vmovI64T5D d m) s = .next (s.afterStep (s.dregsWith (· == d.toNat) v))) ∧
      ∀ q, exec (.vmovI64T5Q q m) s = .next (s.afterStep (s.dregsWith (· / 2 == q.toNat) v))

/-! ## The results of the floating-point rows -/

/-- The write of R109, which VMOV.F16 and VMOV.F32 of A2 and T2 take when their condition passes with the enable check answering
`Enabled`: `S[d]` receives the half-precision constant zero-extended to 32 bits (with FEAT_FP16, unconditional), or the
single-precision constant; the other half of its D register and every other register keep their values. -/
def Obligations.OneSRegisterReceivesTheConstant : Prop :=
  ∀ (d : SReg) (m : BitVec 8) (s : State), s.Ready false → s.ScalarMode →
    (s.hasFP16 = true →
      exec (.vmovF16A2 .al d m .clear) s = .next (s.afterStep (s.dregsWithS d (0#16 ++ vfpExpandImm16 m)))) ∧
      (s.hasFP16 = true → s.itState = 0#8 →
        exec (.vmovF16T2 d m .clear) s = .next (s.afterStep (s.dregsWithS d (0#16 ++ vfpExpandImm16 m)))) ∧
      (∀ c, s.conditionPassed c = true →
        exec (.vmovF32A2 c d m .clear) s = .next (s.afterStep (s.dregsWithS d (vfpExpandImm32 m)))) ∧
      (s.ITPassed → exec (.vmovF32T2 d m .clear) s = .next (s.afterStep (s.dregsWithS d (vfpExpandImm32 m))))

/-- VMOV.F64, A2 and T2 (R110, R153, R156): with the condition passed, the D register holds the double-precision constant. -/
def Obligations.DoublePrecisionMoveWritesOneD : Prop :=
  ∀ (d : DReg) (m : BitVec 8) (s : State), s.Ready false → s.ScalarMode →
    (∀ c, s.conditionPassed c = true →
        exec (.vmovF64A2 c d m .clear) s = .next (s.afterStep (s.dregsWith (· == d.toNat) (vfpExpandImm64 m)))) ∧
      (s.ITPassed →
        exec (.vmovF64T2 d m .clear) s = .next (s.afterStep (s.dregsWith (· == d.toNat) (vfpExpandImm64 m))))

/-- The write of R110: every Advanced SIMD instruction, and A2 and T2 with `size == '11'`, whose condition passes with the enable
check answering `Enabled`, completes and gives each register it names (one D register, or both of a Q register) the whole
64-bit constant; every other D register keeps its value. -/
def Obligations.WholeDRegistersReceiveTheConstant : Prop :=
  ∀ (s : State) (i : Instr) (c : Cond) (imm : DWord), wholeConstant i = some imm → s.Ready (rowKind i == .simd) →
    (rowKind i = .scalar → s.ScalarMode) → sbzOf i = .clear → currentCond i s = some c → s.conditionPassed c = true →
      ∃ t, exec i s = .next t ∧ t = s.afterStep t.dregs ∧
        ∀ n : DReg, t.readD n = if mayWrite n i then imm else s.readD n

/-- `VFPExpandImm` (R85): in each of the three formats the bits, read as a number with that format's sign, exponent and
fraction, are normal and denote `(-1)^a * (16 + UInt(efgh)) / 16 * 2^(UInt(NOT(b):c:d) - 3)`. Both sides are multiplied
by 128 and by the format's scale, so that they are whole numbers. -/
def Obligations.FloatingPointConstantsDenoteTheirValues : Prop :=
  ∀ m : BitVec 8,
    (let b := vfpExpandImm16 m
      let e := (b.extractLsb' 10 5).toNat
      0 < e ∧ e < 31 ∧ vfpValue128 m * 2 ^ (15 + 10) =
        (if b.getLsbD 15 then -1 else 1) * (2 ^ 10 + (b.extractLsb' 0 10).toNat) * 2 ^ e * 128) ∧
    (let b := vfpExpandImm32 m
      let e := (b.extractLsb' 23 8).toNat
      0 < e ∧ e < 255 ∧ vfpValue128 m * 2 ^ (127 + 23) =
        (if b.getLsbD 31 then -1 else 1) * (2 ^ 23 + (b.extractLsb' 0 23).toNat) * 2 ^ e * 128) ∧
    (let b := vfpExpandImm64 m
      let e := (b.extractLsb' 52 11).toNat
      0 < e ∧ e < 2047 ∧ vfpValue128 m * 2 ^ (1023 + 52) =
        (if b.getLsbD 63 then -1 else 1) * (2 ^ 52 + (b.extractLsb' 0 52).toNat) * 2 ^ e * 128)

/-! ## Register views -/

/-- The S view (R21): an S write is read back from that S register, every other S register reads as before, and the registers
D16 to D31 keep their values. -/
def Obligations.SViewReadsWhatWasWritten : Prop :=
  ∀ (s : State) (n : SReg) (v : Word),
    (s.writeS n v).readS n = v ∧ (∀ m : SReg, m ≠ n → (s.writeS n v).readS m = s.readS m) ∧
      ∀ d : DReg, 16 ≤ d.toNat → (s.writeS n v).readD d = s.readD d

/-- The views of one D register (R21, R22, R204): `D[k]` is `S[2k+1]:S[2k]` for k below 16, and `Q[n]` is `D[2n+1]:D[2n]`. -/
def Obligations.ViewsOverlap : Prop :=
  ∀ s : State, (∀ k : BitVec 4, s.readD (0#1 ++ k) = s.readS (k ++ 1#1) ++ s.readS (k ++ 0#1)) ∧
    ∀ n : QReg, s.readQ n = s.readD (BitVec.ofNat 5 (2 * n.toNat + 1)) ++ s.readD (BitVec.ofNat 5 (2 * n.toNat))

/-! ## Faults and refusals -/

/-- `Q == '1'` with `Vd<0> == '1'` in A32 (R89, R175): UNDEFINED for every immediate, whatever the enable check would answer. -/
def Obligations.OddQuadwordIsUndefinedInA32 : Prop :=
  ∀ (s : State) (h : BitVec 4) (m : BitVec 8), s.preCheck = none →
    (∀ c, exec (.undefinedA1 c h m) s = .fault (.undefined s.pc)) ∧
      (∀ c, exec (.undefinedA3 c h m) s = .fault (.undefined s.pc)) ∧
      (∀ c, exec (.undefinedA4 c h m) s = .fault (.undefined s.pc)) ∧
      exec (.undefinedA5 h m) s = .fault (.undefined s.pc)

/-- The other rows that are UNDEFINED by their encoding (R89), when the condition passes: `Q == '1'` with `Vd<0> == '1'` in
T32, and `size == '00'` in A2 and T2. -/
def Obligations.UndefinedRowsFaultWhenTheConditionPasses : Prop :=
  ∀ (s : State) (h : BitVec 4) (dvd : BitVec 5) (m : BitVec 8), s.preCheck = none →
    (s.ITPassed →
      (∀ c, exec (.undefinedT1 c h m) s = .fault (.undefined s.pc)) ∧
        (∀ c, exec (.undefinedT3 c h m) s = .fault (.undefined s.pc)) ∧
        (∀ c, exec (.undefinedT4 c h m) s = .fault (.undefined s.pc)) ∧
        exec (.undefinedT5 h m) s = .fault (.undefined s.pc) ∧
        exec (.undefinedT2 dvd m .clear) s = .fault (.undefined s.pc)) ∧
      ∀ c, s.conditionPassed c = true → exec (.undefinedA2 c dvd m .clear) s = .fault (.undefined s.pc)

/-- The list of R89 is complete. On words: the rows that are UNDEFINED by their encoding are `Q == '1'` with `Vd<0> == '1'` in the
Advanced SIMD encodings (bit 26 in A32, bit 24 in T32, tells the two formats apart) and `size == '00'` in A2 and T2. On states: with
the condition passed, an instruction of the list faults, and one that is not does not fault where the enable check answers
`Enabled`. -/
def Obligations.UndefinedEncodingsAreTheList : Prop :=
  (∀ (w : Word) (i : Instr), decodeA32 w = .ok i →
      (rowKind i = .undefinedRow ↔
        if w.getLsbD 26 = false then w.getLsbD 6 = true ∧ w.getLsbD 12 = true else w.extractLsb' 8 2 = 0b00#2)) ∧
    (∀ (w : Word) (i : Instr), decodeT32 w = .ok i →
      (rowKind i = .undefinedRow ↔
        if w.getLsbD 24 = true then w.getLsbD 6 = true ∧ w.getLsbD 12 = true else w.extractLsb' 8 2 = 0b00#2)) ∧
    ∀ (s : State) (i : Instr) (c : Cond), s.preCheck = none → sbzOf i = .clear → currentCond i s = some c →
      s.conditionPassed c = true →
      (UndefinedByDecode i s → exec i s = .fault (.undefined s.pc)) ∧
        (¬ UndefinedByDecode i s → s.enableCheck (rowKind i == .simd) = some .enabled → ∀ f, exec i s ≠ .fault f)

/-- FPSCR.Len or FPSCR.Stride not zero (R89, R150, R202): every row of A2 and T2 whose condition passes is UNDEFINED, a
conditional half-precision move among them, since this test stands first. -/
def Obligations.VectorModeMakesScalarRowsUndefined : Prop :=
  ∀ (s : State) (i : Instr) (c : Cond), s.preCheck = none → s.fpscrLen ≠ 0#3 ∨ s.fpscrStride ≠ 0#2 →
    rowKind i = .half ∨ rowKind i = .scalar → sbzOf i = .clear → currentCond i s = some c → s.conditionPassed c = true →
      exec i s = .fault (.undefined s.pc)

/-- Without FEAT_FP16 (R89, R90, R151): the half-precision rows are UNDEFINED when their condition passes, and never
UNPREDICTABLE. -/
def Obligations.HalfPrecisionWithoutTheFeatureIsUndefined : Prop :=
  ∀ (s : State) (i : Instr) (c : Cond), s.preCheck = none → s.hasFP16 = false → rowKind i = .half → sbzOf i = .clear →
    currentCond i s = some c → s.conditionPassed c = true → exec i s = .fault (.undefined s.pc)

/-- A conditional half-precision move (R90, R157, C6) is refused in every state with FEAT_FP16, Len and Stride zero, whether or
not its condition holds. -/
def Obligations.ConditionalHalfPrecisionIsUnpredictable : Prop :=
  ∀ (s : State) (d : SReg) (m : BitVec 8), s.preCheck = none → s.ScalarMode → s.hasFP16 = true →
    (∀ c, c ≠ Cond.al → exec (.vmovF16A2 c d m .clear) s = .refused .unpredictable) ∧
      (s.inITBlock = true → exec (.vmovF16T2 d m .clear) s = .refused .unpredictable)

/-- A `(0)` bit of A2 or T2 that is 1 (R91): refused before anything but step 0, in every state. -/
def Obligations.ShouldBeZeroBitsAreRefused : Prop :=
  ∀ (s : State) (i : Instr), s.preCheck = none → (sbzOf i).bit7 = true ∨ (sbzOf i).bit5 = true →
    exec i s = .refused .shouldBeZero

/-- The enable check (R108, R170): an instruction whose decode raises nothing and whose condition passes faults as the check
answers. `advsimd` is TRUE for the Advanced SIMD rows, FALSE for A2 and T2; a half-precision row is one that is not conditional. -/
def Obligations.EnableCheckDecidesTheFault : Prop :=
  ∀ (s : State) (i : Instr) (c : Cond), s.preCheck = none → currentCond i s = some c → s.conditionPassed c = true →
    (rowKind i = .simd ∨ sbzOf i = .clear ∧ s.ScalarMode ∧
        (rowKind i = .scalar ∨ rowKind i = .half ∧ s.hasFP16 = true ∧ c = .al ∧ s.inITBlock = false)) →
      (s.enableCheck (rowKind i == .simd) = some .undefined → exec i s = .fault (.undefined s.pc)) ∧
        (s.enableCheck (rowKind i == .simd) = some .hypTrap → exec i s = .fault (.hypTrap s.pc)) ∧
        (s.enableCheck (rowKind i == .simd) = some .enabled → ∃ t, exec i s = .next t)

/-- A failed condition with the draw false (R106, R107): every instruction, UNDEFINED by its decode or not, completes and writes
no register. (A conditional half-precision move that its decode does not make UNDEFINED is refused before.) -/
def Obligations.FailedConditionWritesNothing : Prop :=
  ∀ (s : State) (i : Instr) (c : Cond), s.preCheck = none → sbzOf i = .clear → (rowKind i = .half → UndefinedByDecode i s) →
    currentCond i s = some c → s.conditionPassed c = false → s.undefWhenCondFails = false →
      exec i s = .next (s.afterStep s.dregs)

/-- A failed condition with the draw true (R107, R131): an instruction that its decode makes UNDEFINED still faults; another one
that is not a half-precision move takes the fault of the enable check, or completes and writes no register. -/
def Obligations.FailedConditionMayStillFault : Prop :=
  ∀ (s : State) (i : Instr) (c : Cond), s.preCheck = none → sbzOf i = .clear → currentCond i s = some c →
    s.conditionPassed c = false → s.undefWhenCondFails = true →
      (UndefinedByDecode i s → exec i s = .fault (.undefined s.pc)) ∧
        (rowKind i = .simd ∨ rowKind i = .scalar ∧ s.ScalarMode →
          (s.enableCheck (rowKind i == .simd) = some .undefined → exec i s = .fault (.undefined s.pc)) ∧
            (s.enableCheck (rowKind i == .simd) = some .hypTrap → exec i s = .fault (.hypTrap s.pc)) ∧
            (s.enableCheck (rowKind i == .simd) = some .enabled → exec i s = .next (s.afterStep s.dregs)))

/-! ## Conditions and the IT state -/

/-- The condition (R101, R102, R104). The two forms of the table of R102 agree on every condition and every setting of the flags.
`ConditionPassed()` is the second form on the flags where R30 places them: N, Z, C and V are CPSR bits 31, 30, 29 and 28. The
condition of a T32 instruction is ITSTATE[7:4] when ITSTATE[3:0] is not zero, and "always" when ITSTATE is zero, ITSTATE being
CPSR 15:10 and 26:25 (R32). The spec gives all of this from general knowledge (log 8, log 9). -/
def Obligations.ConditionTableFormsAgree : Prop :=
  (∀ (b : BitVec 4) (n z c v : Bool), condHolds (Cond.ofBits b) n z c v = condHoldsByBase b n z c v) ∧
    (∀ (s : State) (b : BitVec 4), s.conditionPassed (Cond.ofBits b) =
      condHoldsByBase b (s.cpsr.getLsbD 31) (s.cpsr.getLsbD 30) (s.cpsr.getLsbD 29) (s.cpsr.getLsbD 28)) ∧
    ∀ (s : State) (i : Instr), i.iset = .t32 →
      let it : BitVec 8 := s.cpsr.extractLsb' 10 6 ++ s.cpsr.extractLsb' 25 2
      (it.extractLsb' 0 4 ≠ 0#4 → currentCond i s = some (Cond.ofBits (it.extractLsb' 4 4))) ∧
        (it = 0#8 → currentCond i s = some .al)

/-- A condition and its inverse (R102): where `cond[3:1]` is not `111`, exactly one of the two conditions that differ in
`cond[0]` holds. -/
def Obligations.NeighbouringConditionsAreInverse : Prop :=
  ∀ (b : BitVec 3) (n z c v : Bool), b ≠ 0b111#3 →
    condHolds (Cond.ofBits (b ++ 1#1)) n z c v = !condHolds (Cond.ofBits (b ++ 0#1)) n z c v

/-- `ITAdvance()` (R32), bit by bit: a state whose low three bits are zero becomes zero; in any other the bits 7 to 5 stay, each of
the bits 4 to 1 is the bit below it before, and bit 0 is 0. So the condition's high three bits stay while the block lasts, a
well-formed IT state stays so, and four advances end any block. The spec gives it from general knowledge (log 9). -/
def Obligations.ITBlocksEndWithinFourInstructions : Prop :=
  ∀ it : BitVec 8,
    (it.extractLsb' 0 3 = 0#3 → itAdvance it = 0#8) ∧
      (it.extractLsb' 0 3 ≠ 0#3 →
        (∀ k, 5 ≤ k → k < 8 → (itAdvance it).getLsbD k = it.getLsbD k) ∧
          (∀ k, k < 4 → (itAdvance it).getLsbD (k + 1) = it.getLsbD k) ∧ (itAdvance it).getLsbD 0 = false) ∧
      (itAdvance it ≠ 0#8 → (itAdvance it).extractLsb' 5 3 = it.extractLsb' 5 3 ∧
        (itAdvance it).extractLsb' 0 4 ≠ 0#4) ∧ itAdvance (itAdvance (itAdvance (itAdvance it))) = 0#8

/-! ## What the machine does not depend on -/

/-- No instruction reads a SIMD&FP register (R23, R129(d), R158(g)): from two states that differ in those registers alone the
outcomes agree but for them, and every D register that the first run gave a whole new value reads alike: those an Advanced SIMD
row or VMOV.F64 of A2 or T2 writes with its condition passed. -/
def Obligations.NoInstructionReadsARegister : Prop :=
  ∀ (i : Instr) (s : State) (ds : Vector DWord Config.numDRegs),
    mapNext (fun t => { t with dregs := ds }) (exec i s) = mapNext (fun t => { t with dregs := ds }) (exec i { s with dregs := ds }) ∧
      ∀ t u n c, (wholeConstant i).isSome = true → exec i s = .next t → exec i { s with dregs := ds } = .next u → mayWrite n i = true →
        currentCond i s = some c → s.conditionPassed c = true → t.readD n = u.readD n

/-- The Advanced SIMD rows do not read FPSCR (R33, R158(e), R202). -/
def Obligations.AdvancedSimdDoesNotReadFpscr : Prop :=
  ∀ (i : Instr) (s : State) (f : Word), rowKind i = .simd →
    exec i { s with fpscr := f } = mapNext (fun t => { t with fpscr := f }) (exec i s)

/-- Of FPSCR, A2 and T2 read Len and Stride alone (R33, R112, R159). -/
def Obligations.ScalarRowsReadOnlyLenAndStride : Prop :=
  ∀ (i : Instr) (s : State) (f : Word), f.extractLsb' 16 3 = s.fpscrLen → f.extractLsb' 20 2 = s.fpscrStride →
    exec i { s with fpscr := f } = mapNext (fun t => { t with fpscr := f }) (exec i s)

/-- CPSR.DIT changes no result (R38, R205, D19): a step from the state with DIT inverted is the step with DIT inverted after. -/
def Obligations.DitHasNoFunctionalEffect : Prop :=
  ∀ s : State, step s.flipDIT = mapNext State.flipDIT (step s)

/-! ## The architected functions, held for orientation -/

/-- The enable check of R173, which the model takes from general knowledge as one value of its parameter (log 4): with
FPEXC.EN zero nothing is enabled; a Hyp Trap is answered only in Non-secure state outside Hyp mode (R172); and, where it
answers `Enabled` for the Advanced SIMD rows, it does for A2 and T2 too. -/
def Obligations.ArchitectedEnableCheckIsConsistent : Prop :=
  ∀ (mon hyp : Bool) (cpacr nsacr hcptr fpexc : Word) (sec : SecurityState) (mode : BitVec 5),
    let check := architectedEnableCheck mon hyp cpacr nsacr hcptr fpexc sec mode
    (fpexc.getLsbD 30 = false → ∀ a, check a ≠ some .enabled ∧ check a ≠ some .hypTrap) ∧
      (∀ a, check a = some .hypTrap → sec = .nonSecure ∧ mode ≠ Mode.hyp.bits ∧ hyp = true) ∧
      (check true = some .enabled → check false = some .enabled)

/-- The architected entries of R179, which no step takes (R178) and which the model holds from general knowledge (log 2): what
is saved, where `pc` goes, the mode, and in Undefined mode I, IT, T and E (bits 9 of CPSR and 25 of SCTLR, the family's places); the
other bits of CPSR, the SIMD&FP registers, FPSCR and memory stay, the rules naming no further effect (log 2). That HSR.CV is 1 is the model's choice
(log 29). -/
def Obligations.ArchitectedEntriesSaveAndRedirect : Prop :=
  ∀ (s : State) (c : Cond),
    (s.undefinedEntry.spsrUnd = s.cpsr ∧ s.undefinedEntry.lrUnd = s.pc + (if s.iset = .a32 then 4#32 else 2#32) ∧
        s.undefinedEntry.mode = some .undefined ∧ s.undefinedEntry.itState = 0#8 ∧
        s.undefinedEntry.cpsr.getLsbD 7 = true ∧ s.undefinedEntry.thumb = s.sctlr.getLsbD 30 ∧
        s.undefinedEntry.cpsr.getLsbD 9 = s.sctlr.getLsbD 25 ∧
        (∀ k, k = 6 ∨ k = 8 ∨ 16 ≤ k ∧ k < 25 ∨ 27 ≤ k → s.undefinedEntry.cpsr.getLsbD k = s.cpsr.getLsbD k) ∧
        s.undefinedEntry.pc = s.vbar + 4#32) ∧
      (s.hypTrapEntry c).spsrHyp = s.cpsr ∧ (s.hypTrapEntry c).elrHyp = s.pc ∧ (s.hypTrapEntry c).mode = some .hyp ∧
        (∀ k, 5 ≤ k → (s.hypTrapEntry c).cpsr.getLsbD k = s.cpsr.getLsbD k) ∧
        (s.hypTrapEntry c).hsr.extractLsb' 26 6 = 0x07#6 ∧ (s.hypTrapEntry c).hsr.extractLsb' 20 5 = 1#1 ++ c.toBits ∧
        (s.hypTrapEntry c).pc = s.hvbar + 0x14#32 ∧
        (s.hypTrapEntry c).dregs = s.dregs ∧ s.undefinedEntry.dregs = s.dregs ∧ (s.hypTrapEntry c).fpscr = s.fpscr ∧
        s.undefinedEntry.fpscr = s.fpscr ∧ (s.hypTrapEntry c).mem = s.mem ∧ s.undefinedEntry.mem = s.mem

/-- The assembler's view (R94, R97, R130): a row has a template exactly when it is not UNDEFINED by its encoding, and the
element the template names fills every lane of the constant an Advanced SIMD row writes. -/
def Obligations.TemplateElementFillsTheRegister : Prop :=
  (∀ i : Instr, (asmForm i).isSome = true ↔ rowKind i ≠ .undefinedRow) ∧
    ∀ (i : Instr) (s t : State) (f : AsmForm) (n : DReg), rowKind i = .simd → asmForm i = some f → exec i s = .next t →
      mayWrite n i = true → (∃ c, currentCond i s = some c ∧ s.conditionPassed c = true) →
        LanesAre f.dt.width (t.readD n) (f.element.setWidth f.dt.width)
end

