-- ==== Sys2Proof/Laws/Bits.lean ====
section
/-! SUPPORT. Fields of concatenations, and what the updates of CPSR leave as it was. -/

namespace Sys2Proof

/-- A field that lies in the high part of a concatenation. -/
theorem extractLsb'_append_high {n m : Nat} (x : BitVec n) (y : BitVec m) (i len : Nat) (h : m ≤ i) :
    (x ++ y).extractLsb' i len = x.extractLsb' (i - m) len := by
  ext j hj
  simp only [BitVec.getElem_extractLsb', BitVec.getLsbD_append]
  have : ¬ i + j < m := by omega
  simp [this]
  congr 1
  omega

/-- A field that lies in the low part of a concatenation. -/
theorem extractLsb'_append_low {n m : Nat} (x : BitVec n) (y : BitVec m) (i len : Nat) (h : i + len ≤ m) :
    (x ++ y).extractLsb' i len = y.extractLsb' i len := by
  ext j hj
  simp only [BitVec.getElem_extractLsb', BitVec.getLsbD_append]
  have : i + j < m := by omega
  simp [this]

/-- The field of all bits. -/
theorem extractLsb'_whole {n : Nat} (x : BitVec n) : x.extractLsb' 0 n = x := by
  simp

/-- Two neighbouring fields, joined, are the field of both. -/
theorem extractLsb'_join {n : Nat} (x : BitVec n) (i a b : Nat) :
    x.extractLsb' (i + b) a ++ x.extractLsb' i b = x.extractLsb' i (a + b) := by
  ext j hj
  simp only [BitVec.getElem_append, BitVec.getElem_extractLsb']
  split
  · rfl
  · congr 1; omega

/-- A field of a field. -/
theorem extractLsb'_of_field {n : Nat} (x : BitVec n) (start len i l : Nat) (h : i + l ≤ len) :
    (x.extractLsb' start len).extractLsb' i l = x.extractLsb' (start + i) l := by
  ext j hj
  simp only [BitVec.getElem_extractLsb', BitVec.getLsbD_extractLsb']
  have : i + j < len := by omega
  simp only [this, decide_true, Bool.true_and]
  congr 1
  omega

/-- A field of a replicated value that is one of its copies. -/
theorem extractLsb'_replicate {w : Nat} (x : BitVec w) (n k : Nat) (h : k < n) :
    (x.replicate n).extractLsb' (w * k) w = x := by
  ext j hj
  have hlt : w * k + j < w * n := by
    have : w * (k + 1) ≤ w * n := Nat.mul_le_mul_left w h
    rw [Nat.mul_add] at this
    omega
  simp only [BitVec.getElem_extractLsb', BitVec.getLsbD_replicate, hlt, decide_true, Bool.true_and]
  rw [Nat.mul_add_mod, Nat.mod_eq_of_lt hj, BitVec.getLsbD_eq_getElem hj]

namespace Machine

/-- CPSR.T after a placing that selects an instruction set (R31). -/
theorem cpsrWithT_thumb (c : Word) (set : ISet) : (cpsrWithT c set).getLsbD 5 = (set == .t32) := by
  have h : ∀ t : BitVec 1, (c.extractLsb' 6 26 ++ t ++ c.extractLsb' 0 5).getLsbD 5 = t.getLsbD 0 := by
    intro t
    rw [BitVec.getLsbD_append, BitVec.getLsbD_append]
    simp
  cases set
  · exact h 0#1
  · exact h 1#1

/-- A bit of CPSR outside ITSTATE is as it was (R32, R40). -/
theorem cpsrWithIT_getLsbD (c : Word) (it : BitVec 8) (k : Nat)
    (h : ¬(10 ≤ k ∧ k < 16) ∧ ¬(25 ≤ k ∧ k < 27)) : (cpsrWithIT c it).getLsbD k = c.getLsbD k := by
  simp only [cpsrWithIT, BitVec.getLsbD_append, BitVec.getLsbD_extractLsb']
  rcases lt_or_ge k 10 with h1 | h1
  · simp [h1]
  rcases lt_or_ge k 16 with h2 | h2
  · omega
  rcases lt_or_ge k 25 with h3 | h3
  · have a : ¬ k < 10 := by omega
    have b : ¬ k - 10 < 6 := by omega
    have d : k - 10 - 6 < 9 := by omega
    have e : 16 + (k - 10 - 6) = k := by omega
    simp [a, b, d, e]
  rcases lt_or_ge k 27 with h4 | h4
  · omega
  have a : ¬ k < 10 := by omega
  have b : ¬ k - 10 < 6 := by omega
  have d : ¬ k - 10 - 6 < 9 := by omega
  have f : ¬ k - 10 - 6 - 9 < 2 := by omega
  have e : 27 + (k - 10 - 6 - 9 - 2) = k := by omega
  rcases lt_or_ge k 32 with h5 | h5
  · have g : k - 10 - 6 - 9 - 2 < 5 := by omega
    simp [a, b, d, f, g, e]
  · have g : ¬ k - 10 - 6 - 9 - 2 < 5 := by omega
    simp [a, b, d, f, g, BitVec.getLsbD_of_ge c k h5]

/-- ITSTATE as it was written (R32). -/
theorem cpsrWithIT_it (c : Word) (it : BitVec 8) :
    (cpsrWithIT c it).extractLsb' 10 6 ++ (cpsrWithIT c it).extractLsb' 25 2 = it := by
  have h1 : (cpsrWithIT c it).extractLsb' 10 6 = it.extractLsb' 2 6 := by
    rw [cpsrWithIT, extractLsb'_append_high _ _ _ _ (by decide), extractLsb'_append_low _ _ _ _ (by decide)]
    exact extractLsb'_whole _
  have h2 : (cpsrWithIT c it).extractLsb' 25 2 = it.extractLsb' 0 2 := by
    rw [cpsrWithIT, extractLsb'_append_high _ _ _ _ (by decide), extractLsb'_append_high _ _ _ _ (by decide),
      extractLsb'_append_high _ _ _ _ (by decide), extractLsb'_append_low _ _ _ _ (by decide)]
    exact extractLsb'_whole _
  rw [h1, h2]
  exact (extractLsb'_join it 0 6 2).trans (extractLsb'_whole it)

/-- Writing back the ITSTATE that CPSR holds changes nothing. -/
theorem cpsrWithIT_self (c : Word) : cpsrWithIT c (c.extractLsb' 10 6 ++ c.extractLsb' 25 2) = c := by
  have h2 : (c.extractLsb' 10 6 ++ c.extractLsb' 25 2).extractLsb' 0 2 = c.extractLsb' 25 2 := by
    rw [extractLsb'_append_low _ _ _ _ (by decide)]; exact extractLsb'_whole _
  have h6 : (c.extractLsb' 10 6 ++ c.extractLsb' 25 2).extractLsb' 2 6 = c.extractLsb' 10 6 := by
    rw [extractLsb'_append_high _ _ _ _ (by decide)]; exact extractLsb'_whole _
  rw [cpsrWithIT, h2, h6, extractLsb'_join c 25 5 2, extractLsb'_join c 16 7 9, extractLsb'_join c 10 16 6,
    extractLsb'_join c 0 22 10]
  exact extractLsb'_whole c

/-- ITSTATE of a state whose CPSR has had its ITSTATE written (R32). -/
theorem State.itState_cpsrWithIT (s : State) (it : BitVec 8) :
    State.itState { s with cpsr := cpsrWithIT s.cpsr it } = it := cpsrWithIT_it _ _

/-- The mode field is as it was (R40). -/
theorem cpsrWithIT_mode (c : Word) (it : BitVec 8) : (cpsrWithIT c it).extractLsb' 0 5 = c.extractLsb' 0 5 := by
  rw [cpsrWithIT, extractLsb'_append_low _ _ _ _ (by decide)]
  ext j hj
  simp

/-- The condition on the flags as CPSR holds them (R30, R101). -/
theorem State.conditionPassed_cpsr (s : State) (c : Cond) : s.conditionPassed c =
    condHolds c (s.cpsr.getLsbD 31) (s.cpsr.getLsbD 30) (s.cpsr.getLsbD 29) (s.cpsr.getLsbD 28) := rfl

/-- CPSR.T set is T32 state (R31). -/
theorem State.iset_of_thumb {s : State} (h : s.cpsr.getLsbD 5 = true) : s.iset = .t32 := by
  simp [State.iset, State.thumb, h]

/-- Completing a step does not change the instruction set (R31). -/
theorem State.complete_iset (s : State) : s.complete.iset = s.iset := by
  have : s.complete.thumb = s.thumb := cpsrWithIT_getLsbD _ _ 5 (by decide)
  simp [State.iset, this]

/-- Completing a step leaves ITSTATE advanced in T32 state and as it was in A32 state (R111). -/
theorem State.complete_itState (s : State) : s.complete.itState = s.nextIT := cpsrWithIT_it _ _

/-- In A32 state the whole of CPSR is as it was (R32, R40). -/
theorem State.complete_cpsr_a32 {s : State} (h : s.iset = .a32) : s.complete.cpsr = s.cpsr := by
  have : s.nextIT = s.itState := by simp [State.nextIT, h]
  show cpsrWithIT s.cpsr s.nextIT = s.cpsr
  rw [this]
  exact cpsrWithIT_self _

end Machine

end Sys2Proof
end

