-- ==== Sys2Proof/Laws/Encoding.lean ====
section
/-! SUPPORT. What the decoder reads from the words the encoder writes, format by format. -/

namespace Sys2Proof

theorem Cond.ofBits_toBits (c : Cond) : Cond.ofBits c.toBits = c := by cases c <;> rfl

theorem Cond.toBits_ofBits (b : BitVec 4) : (Cond.ofBits b).toBits = b := by revert b; decide

theorem Cond.toBits_ne_nv {c : Cond} (h : c.isA2Cond = true) : c.toBits ≠ 0b1111#4 := by
  cases c <;> first | decide | exact absurd h (by decide)

/-- The four bytes of an A32 word are the word (R53). -/
theorem wordOfBytes_fields (w : Word) :
    wordOfBytes (w.extractLsb' 0 8) (w.extractLsb' 8 8) (w.extractLsb' 16 8) (w.extractLsb' 24 8) = w := by
  rw [wordOfBytes, extractLsb'_join w 16 8 8, extractLsb'_join w 8 16 8, extractLsb'_join w 0 24 8]
  exact extractLsb'_whole w

theorem decode_layout_a32 (w : Word) : decode .a32 (layout .a32 w) = (decodeA32 w).map fun i => (i, []) := by
  rw [layout, decode, wordOfBytes_fields]

theorem decode_layout_t32 (w : Word) (h : isLongT32 (w.extractLsb' 16 16) = true) :
    decode .t32 (layout .t32 w) = (decodeT32 w).map fun i => (i, []) := by
  have h1 : halfOfBytes (w.extractLsb' 16 8) (w.extractLsb' 24 8) = w.extractLsb' 16 16 := extractLsb'_join w 16 8 8
  have h2 : halfOfBytes (w.extractLsb' 0 8) (w.extractLsb' 8 8) = w.extractLsb' 0 16 := extractLsb'_join w 0 8 8
  have h3 : w.extractLsb' 16 16 ++ w.extractLsb' 0 16 = w :=
    (extractLsb'_join w 0 16 16).trans (extractLsb'_whole w)
  simp only [layout, decode, h1, h2, h, if_true]
  rw [h3]

/-! The Advanced SIMD formats. -/

section Simd

variable (x : BitVec 8) (cmode : BitVec 4) (q op : BitVec 1) (dvd : BitVec 5) (imm8 : BitVec 8)

/-- The fields of bits 23:0, whatever stands above them (R66, R67). -/
theorem simdLowBits_fields (w : Word) (h : w = x ++ simdLowBits cmode q op dvd imm8) :
    w.extractLsb' 24 8 = x ∧ w.extractLsb' 23 1 = 1#1 ∧ w.extractLsb' 22 1 = dvd.extractLsb' 4 1 ∧
      w.extractLsb' 19 3 = 0#3 ∧ w.extractLsb' 16 3 = imm8.extractLsb' 4 3 ∧ w.extractLsb' 12 4 = dvd.extractLsb' 0 4 ∧
      w.extractLsb' 8 4 = cmode ∧ w.extractLsb' 7 1 = 0#1 ∧ w.extractLsb' 6 1 = q ∧ w.extractLsb' 5 1 = op ∧
      w.extractLsb' 4 1 = 1#1 ∧ w.extractLsb' 0 4 = imm8.extractLsb' 0 4 := by
  subst h
  refine ⟨?_, ?_, ?_, ?_, ?_, ?_, ?_, ?_, ?_, ?_, ?_, ?_⟩ <;> unfold simdLowBits <;>
    repeat (first
      | exact extractLsb'_whole _
      | rw [extractLsb'_append_low _ _ _ _ (by decide)]
      | rw [extractLsb'_append_high _ _ _ _ (by decide)])

theorem isSimdLow_append : isSimdLow (x ++ simdLowBits cmode q op dvd imm8) = true := by
  obtain ⟨-, h23, -, h19, -, -, -, h7, -, -, h4, -⟩ := simdLowBits_fields x cmode q op dvd imm8 _ rfl
  simp only [isSimdLow, h23, h19, h7, h4]
  decide

theorem dvdField_append : dvdField (x ++ simdLowBits cmode q op dvd imm8) = dvd := by
  obtain ⟨-, -, h22, -, -, h12, -⟩ := simdLowBits_fields x cmode q op dvd imm8 _ rfl
  rw [dvdField, h22, h12]
  exact (extractLsb'_join dvd 0 1 4).trans (extractLsb'_whole dvd)

theorem simdImm8_append : simdImm8 (imm8.extractLsb' 7 1) (x ++ simdLowBits cmode q op dvd imm8) = imm8 := by
  obtain ⟨-, -, -, -, h16, -, -, -, -, -, -, h0⟩ := simdLowBits_fields x cmode q op dvd imm8 _ rfl
  rw [simdImm8, h16, h0, extractLsb'_join imm8 4 1 3]
  exact (extractLsb'_join imm8 0 4 4).trans (extractLsb'_whole imm8)

/-- An A32 word of format `VI-A` decodes to the row its fields name. -/
theorem decodeA32_simdWordA32 :
    decodeA32 (simdWordA32 cmode q op dvd imm8) = (simdKind op cmode).map fun k => simdA32 imm8 k (simdDest q dvd) := by
  have hw : simdWordA32 cmode q op dvd imm8 = (0b1111001#7 ++ imm8.extractLsb' 7 1) ++ simdLowBits cmode q op dvd imm8 := rfl
  obtain ⟨htop, -, -, -, -, -, h8, -, h6, h5, -, -⟩ := simdLowBits_fields _ cmode q op dvd imm8 _ hw
  have hlow := isSimdLow_append (0b1111001#7 ++ imm8.extractLsb' 7 1) cmode q op dvd imm8
  have hdvd := dvdField_append (0b1111001#7 ++ imm8.extractLsb' 7 1) cmode q op dvd imm8
  have himm := simdImm8_append (0b1111001#7 ++ imm8.extractLsb' 7 1) cmode q op dvd imm8
  rw [← hw] at hlow hdvd himm
  generalize simdWordA32 cmode q op dvd imm8 = w at *
  have h25 : w.extractLsb' 25 7 = 0b1111001#7 := by
    have : (w.extractLsb' 24 8).extractLsb' 1 7 = w.extractLsb' 25 7 := extractLsb'_of_field _ _ _ _ _ (by decide)
    rw [← this, htop, extractLsb'_append_high _ _ _ _ (by decide)]
    exact extractLsb'_whole _
  have h24 : w.extractLsb' 24 1 = imm8.extractLsb' 7 1 := by
    have : (w.extractLsb' 24 8).extractLsb' 0 1 = w.extractLsb' 24 1 := extractLsb'_of_field _ _ _ _ _ (by decide)
    rw [← this, htop, extractLsb'_append_low _ _ _ _ (by decide)]
    exact extractLsb'_whole _
  simp only [decodeA32, h25, h24, hlow, h5, h6, h8, hdvd, himm, and_self, if_true]

/-- A T32 pair of format `VI-T` decodes to the row its fields name. -/
theorem decodeT32_simdWordT32 :
    decodeT32 (simdWordT32 cmode q op dvd imm8) = (simdKind op cmode).map fun k => simdT32 imm8 k (simdDest q dvd) := by
  have hw : simdWordT32 cmode q op dvd imm8 =
      (0b111#3 ++ imm8.extractLsb' 7 1 ++ 0b1111#4) ++ simdLowBits cmode q op dvd imm8 := rfl
  obtain ⟨htop, -, -, -, -, -, h8, -, h6, h5, -, -⟩ := simdLowBits_fields _ cmode q op dvd imm8 _ hw
  have hlow := isSimdLow_append (0b111#3 ++ imm8.extractLsb' 7 1 ++ 0b1111#4) cmode q op dvd imm8
  have hdvd := dvdField_append (0b111#3 ++ imm8.extractLsb' 7 1 ++ 0b1111#4) cmode q op dvd imm8
  have himm := simdImm8_append (0b111#3 ++ imm8.extractLsb' 7 1 ++ 0b1111#4) cmode q op dvd imm8
  rw [← hw] at hlow hdvd himm
  generalize simdWordT32 cmode q op dvd imm8 = w at *
  have h29 : w.extractLsb' 29 3 = 0b111#3 := by
    have : (w.extractLsb' 24 8).extractLsb' 5 3 = w.extractLsb' 29 3 := extractLsb'_of_field _ _ _ _ _ (by decide)
    rw [← this, htop, extractLsb'_append_high _ _ _ _ (by decide), extractLsb'_append_high _ _ _ _ (by decide)]
    exact extractLsb'_whole _
  have h28 : w.extractLsb' 28 1 = imm8.extractLsb' 7 1 := by
    have : (w.extractLsb' 24 8).extractLsb' 4 1 = w.extractLsb' 28 1 := extractLsb'_of_field _ _ _ _ _ (by decide)
    rw [← this, htop, extractLsb'_append_high _ _ _ _ (by decide), extractLsb'_append_low _ _ _ _ (by decide)]
    exact extractLsb'_whole _
  have h24 : w.extractLsb' 24 4 = 0b1111#4 := by
    have : (w.extractLsb' 24 8).extractLsb' 0 4 = w.extractLsb' 24 4 := extractLsb'_of_field _ _ _ _ _ (by decide)
    rw [← this, htop, extractLsb'_append_low _ _ _ _ (by decide)]
    exact extractLsb'_whole _
  simp only [decodeT32, h29, h28, h24, hlow, h5, h6, h8, hdvd, himm, and_self, if_true]

/-- A pair of format `VI-T` begins a 32-bit T32 instruction (R93). -/
theorem isLongT32_simdWordT32 : isLongT32 ((simdWordT32 cmode q op dvd imm8).extractLsb' 16 16) = true := by
  have hw : simdWordT32 cmode q op dvd imm8 =
      (0b111#3 ++ imm8.extractLsb' 7 1 ++ 0b1111#4) ++ simdLowBits cmode q op dvd imm8 := rfl
  obtain ⟨htop, -⟩ := simdLowBits_fields _ cmode q op dvd imm8 _ hw
  generalize simdWordT32 cmode q op dvd imm8 = w at *
  have h : (w.extractLsb' 16 16).extractLsb' 11 5 = (w.extractLsb' 24 8).extractLsb' 3 5 := by
    rw [extractLsb'_of_field _ _ _ _ _ (by decide), extractLsb'_of_field _ _ _ _ _ (by decide)]
  rw [isLongT32, h, htop]
  generalize imm8.extractLsb' 7 1 = b
  revert b
  decide

end Simd

/-! The floating-point formats. -/

section Fp

variable (top : BitVec 4) (size : BitVec 2) (dbit : BitVec 1) (vd : BitVec 4) (imm8 : BitVec 8)

/-- The fields of a word of format `FI-A` or `FI-T` (R68, R69). -/
theorem fpWord_fields (w : Word) (h : w = fpWord top size dbit vd imm8) :
    w.extractLsb' 28 4 = top ∧ w.extractLsb' 23 5 = 0b11101#5 ∧ w.extractLsb' 22 1 = dbit ∧ w.extractLsb' 20 2 = 0b11#2 ∧
      w.extractLsb' 16 4 = imm8.extractLsb' 4 4 ∧ w.extractLsb' 12 4 = vd ∧ w.extractLsb' 10 2 = 0b10#2 ∧
      w.extractLsb' 8 2 = size ∧ w.extractLsb' 4 4 = 0#4 ∧ w.extractLsb' 0 4 = imm8.extractLsb' 0 4 := by
  subst h
  refine ⟨?_, ?_, ?_, ?_, ?_, ?_, ?_, ?_, ?_, ?_⟩ <;> unfold fpWord <;>
    repeat (first
      | exact extractLsb'_whole _
      | rw [extractLsb'_append_low _ _ _ _ (by decide)]
      | rw [extractLsb'_append_high _ _ _ _ (by decide)])

/-- What the decoder reads from a word of format `FI-A` or `FI-T`: the fixed bits, clear `(0)` bits, the registers. -/
theorem fpWord_reads (w : Word) (h : w = fpWord top size dbit vd imm8) :
    isFpLow w = true ∧ w.extractLsb' 28 4 = top ∧ w.extractLsb' 8 2 = size ∧ dvdField w = dbit ++ vd ∧
      vddField w = vd ++ dbit ∧ fpImm8 w = imm8 ∧ sbzField w = .clear := by
  obtain ⟨h28, h23, h22, h20, h16, h12, h10, h8, h4, h0⟩ := fpWord_fields top size dbit vd imm8 w h
  have bit : ∀ k, k < 4 → w.getLsbD (4 + k) = false := by
    intro k hk
    have e : (w.extractLsb' 4 4).getLsbD k = w.getLsbD (4 + k) := by simp [hk]
    rw [← e, h4]
    simp
  have h4' : w.extractLsb' 4 1 = 0#1 := by
    have : (w.extractLsb' 4 4).extractLsb' 0 1 = w.extractLsb' 4 1 := extractLsb'_of_field _ _ _ _ _ (by decide)
    rw [← this, h4]; decide
  have h6' : w.extractLsb' 6 1 = 0#1 := by
    have : (w.extractLsb' 4 4).extractLsb' 2 1 = w.extractLsb' 6 1 := extractLsb'_of_field _ _ _ _ _ (by decide)
    rw [← this, h4]; decide
  refine ⟨?_, h28, h8, by rw [dvdField, h22, h12], by rw [vddField, h22, h12], ?_, ?_⟩
  · simp only [isFpLow, h23, h20, h10, h6', h4']; decide
  · rw [fpImm8, h16, h0]; exact (extractLsb'_join imm8 0 4 4).trans (extractLsb'_whole imm8)
  · rw [sbzField, SbzBits.clear, bit 3 (by decide), bit 1 (by decide)]

/-- A word of format `FI-A` is not one of format `VI-A`: bits 27:25 are 111 against 001 (R81, C7). -/
theorem fpWord_not_simdA32 (w : Word) (h : w = fpWord top size dbit vd imm8) : w.extractLsb' 25 7 ≠ 0b1111001#7 := by
  obtain ⟨-, h23, -⟩ := fpWord_fields top size dbit vd imm8 w h
  intro h25
  have e1 : (w.extractLsb' 25 7).extractLsb' 0 3 = w.extractLsb' 25 3 := extractLsb'_of_field _ _ _ _ _ (by decide)
  have e2 : (w.extractLsb' 23 5).extractLsb' 2 3 = w.extractLsb' 25 3 := extractLsb'_of_field _ _ _ _ _ (by decide)
  rw [h25] at e1
  rw [h23, ← e1] at e2
  exact absurd e2 (by decide)

/-- A pair of format `FI-T` is not one of format `VI-T`: bit 24 is 0 against 1 (R81). -/
theorem fpWord_not_simdT32 (w : Word) (h : w = fpWord top size dbit vd imm8) : w.extractLsb' 24 4 ≠ 0b1111#4 := by
  obtain ⟨-, h23, -⟩ := fpWord_fields top size dbit vd imm8 w h
  intro h24
  have e1 : (w.extractLsb' 24 4).extractLsb' 0 1 = w.extractLsb' 24 1 := extractLsb'_of_field _ _ _ _ _ (by decide)
  have e2 : (w.extractLsb' 23 5).extractLsb' 1 1 = w.extractLsb' 24 1 := extractLsb'_of_field _ _ _ _ _ (by decide)
  rw [h24] at e1
  rw [h23, ← e1] at e2
  exact absurd e2 (by decide)

/-- An A32 word of format `FI-A` decodes to the row of A2 that `size` names. -/
theorem decodeA32_fpWord (htop : top ≠ 0b1111#4) :
    decodeA32 (fpWord top size dbit vd imm8) = .ok
      (match size.toNat with
      | 0 => .undefinedA2 (Cond.ofBits top) (dbit ++ vd) imm8 .clear
      | 1 => .vmovF16A2 (Cond.ofBits top) (vd ++ dbit) imm8 .clear
      | 2 => .vmovF32A2 (Cond.ofBits top) (vd ++ dbit) imm8 .clear
      | _ => .vmovF64A2 (Cond.ofBits top) (dbit ++ vd) imm8 .clear) := by
  obtain ⟨hlow, h28, h8, hdvd, hvdd, himm, hsbz⟩ := fpWord_reads top size dbit vd imm8 _ rfl
  have hns := fpWord_not_simdA32 top size dbit vd imm8 _ rfl
  simp only [decodeA32, hns, false_and, if_false, hlow, if_true, h28, htop, fpA32, h8, hdvd, hvdd, himm, hsbz]
  all_goals rfl

/-- A T32 pair of format `FI-T` decodes to the row of T2 that `size` names. -/
theorem decodeT32_fpWord :
    decodeT32 (fpWord 0b1110#4 size dbit vd imm8) = .ok
      (match size.toNat with
      | 0 => .undefinedT2 (dbit ++ vd) imm8 .clear
      | 1 => .vmovF16T2 (vd ++ dbit) imm8 .clear
      | 2 => .vmovF32T2 (vd ++ dbit) imm8 .clear
      | _ => .vmovF64T2 (dbit ++ vd) imm8 .clear) := by
  obtain ⟨hlow, h28, h8, hdvd, hvdd, himm, hsbz⟩ := fpWord_reads 0b1110#4 size dbit vd imm8 _ rfl
  have hns := fpWord_not_simdT32 0b1110#4 size dbit vd imm8 _ rfl
  simp only [decodeT32, hns, false_and, and_false, if_false, hlow, if_true, h28, and_self, fpT32, h8, hdvd, hvdd, himm, hsbz]
  all_goals rfl

/-- A pair of format `FI-T` begins a 32-bit T32 instruction (R93). -/
theorem isLongT32_fpWord : isLongT32 ((fpWord 0b1110#4 size dbit vd imm8).extractLsb' 16 16) = true := by
  obtain ⟨h28, h23, -⟩ := fpWord_fields 0b1110#4 size dbit vd imm8 _ rfl
  generalize fpWord 0b1110#4 size dbit vd imm8 = w at *
  have e : (w.extractLsb' 16 16).extractLsb' 11 5 = w.extractLsb' 28 4 ++ (w.extractLsb' 23 5).extractLsb' 4 1 := by
    rw [extractLsb'_of_field _ _ _ _ _ (by decide), extractLsb'_of_field _ _ _ _ _ (by decide)]
    exact (extractLsb'_join w 27 4 1).symm
  rw [isLongT32, e, h28, h23]
  decide

end Fp

end Sys2Proof
end

