-- ==== Sys2Proof/Laws/State.lean ====
section
/-! SUPPORT. One lemma per field per update of the state, each true by rfl, so that no proof unfolds a record update. -/

namespace Sys2Proof.Machine

/-! `D[n] <- v` (R20). -/

@[simp] theorem State.writeD_dregs (s : State) (n : DReg) (v : DWord) : (s.writeD n v).dregs = s.dregs.set n.toNat v n.isLt := rfl
@[simp] theorem State.writeD_gprs (s : State) (n : DReg) (v : DWord) : (s.writeD n v).gprs = s.gprs := rfl
@[simp] theorem State.writeD_pc (s : State) (n : DReg) (v : DWord) : (s.writeD n v).pc = s.pc := rfl
@[simp] theorem State.writeD_cpsr (s : State) (n : DReg) (v : DWord) : (s.writeD n v).cpsr = s.cpsr := rfl
@[simp] theorem State.writeD_fpscr (s : State) (n : DReg) (v : DWord) : (s.writeD n v).fpscr = s.fpscr := rfl
@[simp] theorem State.writeD_cpacr (s : State) (n : DReg) (v : DWord) : (s.writeD n v).cpacr = s.cpacr := rfl
@[simp] theorem State.writeD_nsacr (s : State) (n : DReg) (v : DWord) : (s.writeD n v).nsacr = s.nsacr := rfl
@[simp] theorem State.writeD_hcptr (s : State) (n : DReg) (v : DWord) : (s.writeD n v).hcptr = s.hcptr := rfl
@[simp] theorem State.writeD_fpexc (s : State) (n : DReg) (v : DWord) : (s.writeD n v).fpexc = s.fpexc := rfl
@[simp] theorem State.writeD_security (s : State) (n : DReg) (v : DWord) : (s.writeD n v).security = s.security := rfl
@[simp] theorem State.writeD_spsrUnd (s : State) (n : DReg) (v : DWord) : (s.writeD n v).spsrUnd = s.spsrUnd := rfl
@[simp] theorem State.writeD_lrUnd (s : State) (n : DReg) (v : DWord) : (s.writeD n v).lrUnd = s.lrUnd := rfl
@[simp] theorem State.writeD_spsrHyp (s : State) (n : DReg) (v : DWord) : (s.writeD n v).spsrHyp = s.spsrHyp := rfl
@[simp] theorem State.writeD_elrHyp (s : State) (n : DReg) (v : DWord) : (s.writeD n v).elrHyp = s.elrHyp := rfl
@[simp] theorem State.writeD_hsr (s : State) (n : DReg) (v : DWord) : (s.writeD n v).hsr = s.hsr := rfl
@[simp] theorem State.writeD_vbar (s : State) (n : DReg) (v : DWord) : (s.writeD n v).vbar = s.vbar := rfl
@[simp] theorem State.writeD_hvbar (s : State) (n : DReg) (v : DWord) : (s.writeD n v).hvbar = s.hvbar := rfl
@[simp] theorem State.writeD_sctlr (s : State) (n : DReg) (v : DWord) : (s.writeD n v).sctlr = s.sctlr := rfl
@[simp] theorem State.writeD_mem (s : State) (n : DReg) (v : DWord) : (s.writeD n v).mem = s.mem := rfl
@[simp] theorem State.writeD_hasFP16 (s : State) (n : DReg) (v : DWord) : (s.writeD n v).hasFP16 = s.hasFP16 := rfl
@[simp] theorem State.writeD_enableParam (s : State) (n : DReg) (v : DWord) : (s.writeD n v).enableParam = s.enableParam := rfl
@[simp] theorem State.writeD_draws (s : State) (n : DReg) (v : DWord) : (s.writeD n v).draws = s.draws := rfl
@[simp] theorem State.writeD_drawsTaken (s : State) (n : DReg) (v : DWord) : (s.writeD n v).drawsTaken = s.drawsTaken := rfl

/-! Completion (R111). -/

@[simp] theorem State.complete_dregs (s : State) : (s.complete).dregs = s.dregs := rfl
@[simp] theorem State.complete_gprs (s : State) : (s.complete).gprs = s.gprs := rfl
@[simp] theorem State.complete_pc (s : State) : (s.complete).pc = s.pc + 4#32 := rfl
@[simp] theorem State.complete_cpsr (s : State) : (s.complete).cpsr = cpsrWithIT s.cpsr s.nextIT := rfl
@[simp] theorem State.complete_fpscr (s : State) : (s.complete).fpscr = s.fpscr := rfl
@[simp] theorem State.complete_cpacr (s : State) : (s.complete).cpacr = s.cpacr := rfl
@[simp] theorem State.complete_nsacr (s : State) : (s.complete).nsacr = s.nsacr := rfl
@[simp] theorem State.complete_hcptr (s : State) : (s.complete).hcptr = s.hcptr := rfl
@[simp] theorem State.complete_fpexc (s : State) : (s.complete).fpexc = s.fpexc := rfl
@[simp] theorem State.complete_security (s : State) : (s.complete).security = s.security := rfl
@[simp] theorem State.complete_spsrUnd (s : State) : (s.complete).spsrUnd = s.spsrUnd := rfl
@[simp] theorem State.complete_lrUnd (s : State) : (s.complete).lrUnd = s.lrUnd := rfl
@[simp] theorem State.complete_spsrHyp (s : State) : (s.complete).spsrHyp = s.spsrHyp := rfl
@[simp] theorem State.complete_elrHyp (s : State) : (s.complete).elrHyp = s.elrHyp := rfl
@[simp] theorem State.complete_hsr (s : State) : (s.complete).hsr = s.hsr := rfl
@[simp] theorem State.complete_vbar (s : State) : (s.complete).vbar = s.vbar := rfl
@[simp] theorem State.complete_hvbar (s : State) : (s.complete).hvbar = s.hvbar := rfl
@[simp] theorem State.complete_sctlr (s : State) : (s.complete).sctlr = s.sctlr := rfl
@[simp] theorem State.complete_mem (s : State) : (s.complete).mem = s.mem := rfl
@[simp] theorem State.complete_hasFP16 (s : State) : (s.complete).hasFP16 = s.hasFP16 := rfl
@[simp] theorem State.complete_enableParam (s : State) : (s.complete).enableParam = s.enableParam := rfl
@[simp] theorem State.complete_draws (s : State) : (s.complete).draws = s.draws.tail := rfl
@[simp] theorem State.complete_drawsTaken (s : State) : (s.complete).drawsTaken = s.drawsTaken + 1 := rfl

/-! The state after a step that completes (R40). -/

@[simp] theorem State.afterStep_dregs (s : State) (d : Vector DWord Config.numDRegs) : (s.afterStep d).dregs = d := rfl
@[simp] theorem State.afterStep_gprs (s : State) (d : Vector DWord Config.numDRegs) : (s.afterStep d).gprs = s.gprs := rfl
@[simp] theorem State.afterStep_pc (s : State) (d : Vector DWord Config.numDRegs) : (s.afterStep d).pc = s.pc + 4#32 := rfl
@[simp] theorem State.afterStep_cpsr (s : State) (d : Vector DWord Config.numDRegs) : (s.afterStep d).cpsr = cpsrWithIT s.cpsr s.nextIT := rfl
@[simp] theorem State.afterStep_fpscr (s : State) (d : Vector DWord Config.numDRegs) : (s.afterStep d).fpscr = s.fpscr := rfl
@[simp] theorem State.afterStep_cpacr (s : State) (d : Vector DWord Config.numDRegs) : (s.afterStep d).cpacr = s.cpacr := rfl
@[simp] theorem State.afterStep_nsacr (s : State) (d : Vector DWord Config.numDRegs) : (s.afterStep d).nsacr = s.nsacr := rfl
@[simp] theorem State.afterStep_hcptr (s : State) (d : Vector DWord Config.numDRegs) : (s.afterStep d).hcptr = s.hcptr := rfl
@[simp] theorem State.afterStep_fpexc (s : State) (d : Vector DWord Config.numDRegs) : (s.afterStep d).fpexc = s.fpexc := rfl
@[simp] theorem State.afterStep_security (s : State) (d : Vector DWord Config.numDRegs) : (s.afterStep d).security = s.security := rfl
@[simp] theorem State.afterStep_spsrUnd (s : State) (d : Vector DWord Config.numDRegs) : (s.afterStep d).spsrUnd = s.spsrUnd := rfl
@[simp] theorem State.afterStep_lrUnd (s : State) (d : Vector DWord Config.numDRegs) : (s.afterStep d).lrUnd = s.lrUnd := rfl
@[simp] theorem State.afterStep_spsrHyp (s : State) (d : Vector DWord Config.numDRegs) : (s.afterStep d).spsrHyp = s.spsrHyp := rfl
@[simp] theorem State.afterStep_elrHyp (s : State) (d : Vector DWord Config.numDRegs) : (s.afterStep d).elrHyp = s.elrHyp := rfl
@[simp] theorem State.afterStep_hsr (s : State) (d : Vector DWord Config.numDRegs) : (s.afterStep d).hsr = s.hsr := rfl
@[simp] theorem State.afterStep_vbar (s : State) (d : Vector DWord Config.numDRegs) : (s.afterStep d).vbar = s.vbar := rfl
@[simp] theorem State.afterStep_hvbar (s : State) (d : Vector DWord Config.numDRegs) : (s.afterStep d).hvbar = s.hvbar := rfl
@[simp] theorem State.afterStep_sctlr (s : State) (d : Vector DWord Config.numDRegs) : (s.afterStep d).sctlr = s.sctlr := rfl
@[simp] theorem State.afterStep_mem (s : State) (d : Vector DWord Config.numDRegs) : (s.afterStep d).mem = s.mem := rfl
@[simp] theorem State.afterStep_hasFP16 (s : State) (d : Vector DWord Config.numDRegs) : (s.afterStep d).hasFP16 = s.hasFP16 := rfl
@[simp] theorem State.afterStep_enableParam (s : State) (d : Vector DWord Config.numDRegs) : (s.afterStep d).enableParam = s.enableParam := rfl
@[simp] theorem State.afterStep_draws (s : State) (d : Vector DWord Config.numDRegs) : (s.afterStep d).draws = s.draws.tail := rfl
@[simp] theorem State.afterStep_drawsTaken (s : State) (d : Vector DWord Config.numDRegs) : (s.afterStep d).drawsTaken = s.drawsTaken + 1 := rfl

/-! A word placed for the next fetch. -/

@[simp] theorem State.withFetchWord_dregs (s : State) (nbits w : Nat) : (s.withFetchWord nbits w).dregs = s.dregs := rfl
@[simp] theorem State.withFetchWord_gprs (s : State) (nbits w : Nat) : (s.withFetchWord nbits w).gprs = s.gprs := rfl
@[simp] theorem State.withFetchWord_pc (s : State) (nbits w : Nat) : (s.withFetchWord nbits w).pc = s.pc := rfl
@[simp] theorem State.withFetchWord_cpsr (s : State) (nbits w : Nat) : (s.withFetchWord nbits w).cpsr = cpsrWithT s.cpsr (tableISet (tableWord nbits w)) := rfl
@[simp] theorem State.withFetchWord_fpscr (s : State) (nbits w : Nat) : (s.withFetchWord nbits w).fpscr = s.fpscr := rfl
@[simp] theorem State.withFetchWord_cpacr (s : State) (nbits w : Nat) : (s.withFetchWord nbits w).cpacr = s.cpacr := rfl
@[simp] theorem State.withFetchWord_nsacr (s : State) (nbits w : Nat) : (s.withFetchWord nbits w).nsacr = s.nsacr := rfl
@[simp] theorem State.withFetchWord_hcptr (s : State) (nbits w : Nat) : (s.withFetchWord nbits w).hcptr = s.hcptr := rfl
@[simp] theorem State.withFetchWord_fpexc (s : State) (nbits w : Nat) : (s.withFetchWord nbits w).fpexc = s.fpexc := rfl
@[simp] theorem State.withFetchWord_security (s : State) (nbits w : Nat) : (s.withFetchWord nbits w).security = s.security := rfl
@[simp] theorem State.withFetchWord_spsrUnd (s : State) (nbits w : Nat) : (s.withFetchWord nbits w).spsrUnd = s.spsrUnd := rfl
@[simp] theorem State.withFetchWord_lrUnd (s : State) (nbits w : Nat) : (s.withFetchWord nbits w).lrUnd = s.lrUnd := rfl
@[simp] theorem State.withFetchWord_spsrHyp (s : State) (nbits w : Nat) : (s.withFetchWord nbits w).spsrHyp = s.spsrHyp := rfl
@[simp] theorem State.withFetchWord_elrHyp (s : State) (nbits w : Nat) : (s.withFetchWord nbits w).elrHyp = s.elrHyp := rfl
@[simp] theorem State.withFetchWord_hsr (s : State) (nbits w : Nat) : (s.withFetchWord nbits w).hsr = s.hsr := rfl
@[simp] theorem State.withFetchWord_vbar (s : State) (nbits w : Nat) : (s.withFetchWord nbits w).vbar = s.vbar := rfl
@[simp] theorem State.withFetchWord_hvbar (s : State) (nbits w : Nat) : (s.withFetchWord nbits w).hvbar = s.hvbar := rfl
@[simp] theorem State.withFetchWord_sctlr (s : State) (nbits w : Nat) : (s.withFetchWord nbits w).sctlr = s.sctlr := rfl
@[simp] theorem State.withFetchWord_mem (s : State) (nbits w : Nat) : (s.withFetchWord nbits w).mem = placeBytes s.mem s.pc (layout (tableISet (tableWord nbits w)) (tableWord nbits w)) := rfl
@[simp] theorem State.withFetchWord_hasFP16 (s : State) (nbits w : Nat) : (s.withFetchWord nbits w).hasFP16 = s.hasFP16 := rfl
@[simp] theorem State.withFetchWord_enableParam (s : State) (nbits w : Nat) : (s.withFetchWord nbits w).enableParam = s.enableParam := rfl
@[simp] theorem State.withFetchWord_draws (s : State) (nbits w : Nat) : (s.withFetchWord nbits w).draws = s.draws := rfl
@[simp] theorem State.withFetchWord_drawsTaken (s : State) (nbits w : Nat) : (s.withFetchWord nbits w).drawsTaken = s.drawsTaken := rfl

/-! An S write is one D write (R21). -/

theorem State.writeS_eq_writeD (s : State) (n : SReg) (v : Word) : ∃ w, s.writeS n v = s.writeD (sHome n) w := ⟨_, rfl⟩

/-! The write loop and the result write touch the D registers alone (R40). -/

theorem State.writeDs_eq (s : State) (d : DReg) (v : DWord) (n : Nat) :
    s.writeDs d v n = { s with dregs := (s.writeDs d v n).dregs } := by
  induction n with
  | zero => rfl
  | succ n ih => simp only [State.writeDs]; rw [ih]; rfl

theorem State.writeResult_eq (s : State) (b : Binding) :
    s.writeResult b = { s with dregs := (s.writeResult b).dregs } := by
  unfold State.writeResult
  split
  · rfl
  · exact s.writeDs_eq _ _ _

/-- A result write and then completion: every field but the D registers is as completion leaves it. -/
theorem State.writeResult_complete (s : State) (b : Binding) :
    (s.writeResult b).complete = s.afterStep (s.writeResult b).dregs := by
  rw [s.writeResult_eq b]; rfl

theorem State.complete_eq_afterStep (s : State) : s.complete = s.afterStep s.dregs := rfl

end Sys2Proof.Machine
end

