-- ==== Sys2Proof/Laws/Exec.lean ====
section
/-! SUPPORT. What the shared operations can do, said once: the provers cite these lemmas instead of unfolding the operations. -/

namespace Sys2Proof.Machine

/-- What the checks after the condition can answer when it answers a next state (R100 steps 4 to 7). -/
theorem State.checkAndWrite_next {s t : State} {v : Verdict} {write : Binding → State} (h : s.checkAndWrite v write = .next t) :
    ∃ b, v = .ok b ∧ s.enableCheck b.advsimd = some .enabled ∧ t = (write b).complete := by
  cases v with
  | undef => simp [State.checkAndWrite, raiseFault] at h
  | unpred => simp [State.checkAndWrite] at h
  | ok b =>
    simp only [State.checkAndWrite] at h
    split at h
    · cases h
    · simp [raiseFault] at h
    · simp [raiseFault] at h
    · rename_i he
      injection h with h
      exact ⟨b, rfl, he, h.symm⟩

/-- An instruction with `Enabled` writes and completes. -/
theorem State.checkAndWrite_enabled {s : State} {b : Binding} (write : Binding → State)
    (h : s.enableCheck b.advsimd = some .enabled) : s.checkAndWrite (.ok b) write = .next (write b).complete := by
  simp [State.checkAndWrite, h]

/-- What the Operation can do when it answers a next state: the condition passed and the result is written, or it failed and
nothing is (R100, R106, R107). -/
theorem State.operate_next {s t : State} {c : Cond} {v : Verdict} (h : s.operate c v = .next t) :
    (s.conditionPassed c = true ∧
        ∃ b, v = .ok b ∧ s.enableCheck b.advsimd = some .enabled ∧ t = (s.writeResult b).complete) ∨
      (s.conditionPassed c = false ∧ t = s.complete) := by
  unfold State.operate at h
  split at h
  · rename_i hc
    exact .inl ⟨hc, State.checkAndWrite_next h⟩
  · rename_i hc
    refine .inr ⟨by simpa using hc, ?_⟩
    split at h
    · injection h with h; exact h.symm
    · split at h
      · cases h
      · injection h with h; exact h.symm
    · split at h
      · cases h
      · injection h with h; exact h.symm

/-- What an instruction can do when it answers a next state (R100). -/
theorem State.runVmov_next {s t : State} {z : SbzBits} {oc : Option Cond} {v : Verdict}
    (h : s.runVmov z oc v = .next t) :
    s.preCheck = none ∧ z.isClear = true ∧ v ≠ .unpred ∧ ∃ c, oc = some c ∧ s.operate c v = .next t := by
  unfold State.runVmov at h
  split at h
  · cases h
  · rename_i hp
    split at h
    · cases h
    · rename_i hz
      split at h
      · cases h
      · rename_i hv
        split at h
        · cases h
        · rename_i c
          exact ⟨hp, by simpa using hz, hv, c, rfl, h⟩

/-- When nothing stops it before the condition, an instruction is the Operation. -/
theorem State.runVmov_operate {s : State} {c : Cond} {v : Verdict} (hp : s.preCheck = none) (hv : v ≠ .unpred)
    {z : SbzBits} (hz : z.isClear = true) : s.runVmov z (some c) v = s.operate c v := by
  simp [State.runVmov, hp, hz, hv]

/-- The verdict of an instruction's decode (R105). -/
def instrVerdict (i : Instr) (s : State) : Verdict :=
  match i with
  | .vmovI32A1D c d m | .vmovI32T1D c d m => .ok (bindD 0#1 (0#1 ++ c ++ 0#1) m d)
  | .vmovI32A1Q c q m | .vmovI32T1Q c q m => .ok (bindQ 0#1 (0#1 ++ c ++ 0#1) m q)
  | .vmovI16A3D c d m | .vmovI16T3D c d m => .ok (bindD 0#1 (0b10#2 ++ c ++ 0#1) m d)
  | .vmovI16A3Q c q m | .vmovI16T3Q c q m => .ok (bindQ 0#1 (0b10#2 ++ c ++ 0#1) m q)
  | .vmovI32A4D c d m | .vmovI32T4D c d m => .ok (bindD 0#1 (0b110#3 ++ c) m d)
  | .vmovI32A4Q c q m | .vmovI32T4Q c q m => .ok (bindQ 0#1 (0b110#3 ++ c) m q)
  | .vmovI8A4D d m | .vmovI8T4D d m => .ok (bindD 0#1 0b1110#4 m d)
  | .vmovI8A4Q q m | .vmovI8T4Q q m => .ok (bindQ 0#1 0b1110#4 m q)
  | .vmovF32A4D d m | .vmovF32T4D d m => .ok (bindD 0#1 0b1111#4 m d)
  | .vmovF32A4Q q m | .vmovF32T4Q q m => .ok (bindQ 0#1 0b1111#4 m q)
  | .vmovI64A5D d m | .vmovI64T5D d m => .ok (bindD 1#1 0b1110#4 m d)
  | .vmovI64A5Q q m | .vmovI64T5Q q m => .ok (bindQ 1#1 0b1110#4 m q)
  | .undefinedA1 _ _ _ | .undefinedA3 _ _ _ | .undefinedA4 _ _ _ | .undefinedA5 _ _ | .undefinedA2 _ _ _ _ => .undef
  | .undefinedT1 _ _ _ | .undefinedT3 _ _ _ | .undefinedT4 _ _ _ | .undefinedT5 _ _ | .undefinedT2 _ _ _ => .undef
  | .vmovF16A2 c d m _ => s.decodeFP .half (c != .al) m d
  | .vmovF32A2 c d m _ => s.decodeFP .single (c != .al) m d
  | .vmovF64A2 c d m _ => s.decodeFP .double (c != .al) m d
  | .vmovF16T2 d m _ => s.decodeFP .half s.inITBlock m d
  | .vmovF32T2 d m _ => s.decodeFP .single s.inITBlock m d
  | .vmovF64T2 d m _ => s.decodeFP .double s.inITBlock m d

/-- Every instruction is the shared operation, on its own bits, condition and verdict (R100). -/
theorem exec_eq_runVmov (i : Instr) (s : State) :
    exec i s = s.runVmov (sbzOf i) (currentCond i s) (instrVerdict i s) := by
  cases i <;> rfl

/-- What step 0 leaves when it stops nothing (R29, R32). -/
theorem State.preCheck_none {s : State} (h : s.preCheck = none) :
    s.misalignedPC = false ∧ s.pcWraps = false ∧ s.badITSTATE = false := by
  unfold State.preCheck at h
  split at h
  · cases h
  · split at h
    · cases h
    · split at h
      · cases h
      · simp_all

/-- Where R173 answers, the fields that must be programmed alike are alike, in every register the PE has (U20). -/
theorem architectedEnableCheck_some {mon hyp : Bool} {cpacr nsacr hcptr fpexc : Word} {sec : SecurityState}
    {mode : BitVec 5} {advsimd : Bool} {ans : EnableAnswer}
    (h : architectedEnableCheck mon hyp cpacr nsacr hcptr fpexc sec mode advsimd = some ans) :
    cpacr.extractLsb' 20 2 = cpacr.extractLsb' 22 2 ∧ (mon = true → nsacr.getLsbD 10 = nsacr.getLsbD 11) ∧
      (hyp = true → hcptr.getLsbD 10 = hcptr.getLsbD 11) := by
  unfold architectedEnableCheck at h
  simp only at h
  split at h
  · cases h
  · rename_i h1
    split at h
    · cases h
    · rename_i h2
      split at h
      · cases h
      · rename_i h3
        exact ⟨by simpa using h1, by simpa using h2, by simpa using h3⟩

/-- The whole of what an instruction can change: the D registers, and what completion changes (R28, R40). -/
theorem exec_next {i : Instr} {s t : State} (h : exec i s = .next t) :
    s.preCheck = none ∧ ∃ dregs, t = s.afterStep dregs := by
  rw [exec_eq_runVmov] at h
  obtain ⟨hp, _, _, c, _, h⟩ := State.runVmov_next h
  rcases State.operate_next h with ⟨_, b, _, _, rfl⟩ | ⟨_, rfl⟩
  · exact ⟨hp, _, State.writeResult_complete s b⟩
  · exact ⟨hp, _, State.complete_eq_afterStep s⟩

/-- After step 0, the IT state gives a condition (R32). -/
theorem State.itCondition_isSome {s : State} (h : s.preCheck = none) : s.itCondition.isSome = true := by
  obtain ⟨-, -, hb⟩ := State.preCheck_none h
  unfold State.badITSTATE at hb
  unfold State.itCondition
  split
  · rfl
  · rename_i hi
    cases hs : s.iset <;> simp_all

/-- What a step can do when it answers a next state (R13, R100). -/
theorem step_next {s t : State} (h : step s = .next t) :
    s.preCheck = none ∧ ∃ bytes i rest, s.fetch = .ok bytes ∧ decode s.iset bytes = .ok (i, rest) ∧ exec i s = .next t := by
  unfold step at h
  split at h
  · cases h
  · rename_i hp
    split at h
    · cases h
    · rename_i bytes hf
      split at h
      · cases h
      · rename_i i rest hd
        exact ⟨hp, bytes, i, rest, hf, hd, h⟩

end Sys2Proof.Machine
end

