-- ==== Sys2Proof/Laws/Fetch.lean ====
section
/-! SUPPORT. What the fetch at `pc` can answer, said once, by the bytes that memory lists (R51 to R53, R93). -/

namespace Sys2Proof.Machine

/-- When step 0 stops nothing, none of the four addresses from `pc` wraps (R29). -/
theorem State.fetch_address {s : State} (h : s.preCheck = none) {k : Nat} (hk : k < 4) :
    (s.pc + BitVec.ofNat 32 k).toNat = s.pc.toNat + k := by
  obtain ⟨-, hw, -⟩ := State.preCheck_none h
  simp only [State.pcWraps, decide_eq_false_iff_not] at hw
  rw [BitVec.toNat_add, BitVec.toNat_ofNat]
  omega

theorem State.fetchByte_ok {s : State} (h : s.preCheck = none) {k : Nat} (hk : k < 4) {b : Byte}
    (hb : s.mem.read (s.pc.toNat + k) = some b) : s.fetchByte k = .ok b := by
  rw [State.fetchByte, State.fetch_address h hk, hb]

theorem State.fetchByte_missing {s : State} (h : s.preCheck = none) {k : Nat} (hk : k < 4)
    (hb : s.mem.read (s.pc.toNat + k) = none) :
    s.fetchByte k = .error (.noProgramText (s.pc + BitVec.ofNat 32 k)) := by
  rw [State.fetchByte, State.fetch_address h hk, hb]

/-- A list of bytes that are all there is read in its order. -/
theorem State.fetchBytes_cons_ok {s : State} {k : Nat} {ks : List Nat} {b : Byte} {bs : List Byte}
    (hb : s.fetchByte k = .ok b) (hbs : s.fetchBytes ks = .ok bs) : s.fetchBytes (k :: ks) = .ok (b :: bs) := by
  simp [State.fetchBytes, hb, hbs]

/-- The first byte that is not there stops the reading of a list. -/
theorem State.fetchBytes_append_error {s : State} {k : Nat} {r : Refusal} (ks rest : List Nat)
    (h : ∀ j ∈ ks, ∃ b, s.fetchByte j = .ok b) (hk : s.fetchByte k = .error r) :
    s.fetchBytes (ks ++ k :: rest) = .error r := by
  induction ks with
  | nil => simp [State.fetchBytes, hk]
  | cons j ks ih =>
    obtain ⟨b, hb⟩ := h j (by simp)
    simp [State.fetchBytes, hb, ih fun i hi => h i (by simp [hi])]

/-- The first two bytes of the instruction, when memory lists them (R52). -/
theorem State.fetchBytes_two {s : State} (h : s.preCheck = none) {b0 b1 : Byte} (h0 : s.mem.read s.pc.toNat = some b0)
    (h1 : s.mem.read (s.pc.toNat + 1) = some b1) : s.fetchBytes [0, 1] = .ok [b0, b1] :=
  State.fetchBytes_cons_ok (State.fetchByte_ok h (by decide) h0)
    (State.fetchBytes_cons_ok (State.fetchByte_ok h (by decide) h1) rfl)

/-- The four bytes of the instruction, when memory lists them (R51, R52). -/
theorem State.fetchBytes_four {s : State} (h : s.preCheck = none) {b0 b1 b2 b3 : Byte}
    (h0 : s.mem.read s.pc.toNat = some b0) (h1 : s.mem.read (s.pc.toNat + 1) = some b1)
    (h2 : s.mem.read (s.pc.toNat + 2) = some b2) (h3 : s.mem.read (s.pc.toNat + 3) = some b3) :
    s.fetchBytes [0, 1, 2, 3] = .ok [b0, b1, b2, b3] :=
  State.fetchBytes_cons_ok (State.fetchByte_ok h (by decide) h0)
    (State.fetchBytes_cons_ok (State.fetchByte_ok h (by decide) h1)
      (State.fetchBytes_cons_ok (State.fetchByte_ok h (by decide) h2)
        (State.fetchBytes_cons_ok (State.fetchByte_ok h (by decide) h3) rfl)))

/-- The fetch in A32 state is the four bytes, in their order (R51). -/
theorem State.fetch_a32 {s : State} (h : s.iset = .a32) : s.fetch = s.fetchBytes [0, 1, 2, 3] := by
  simp [State.fetch, h]

/-- The fetch in T32 state, by whether the first halfword begins a 32-bit instruction (R52, R93). -/
theorem State.fetch_t32 {s : State} (h : s.iset = .t32) {hw1 : List Byte} (h1 : s.fetchBytes [0, 1] = .ok hw1) :
    s.fetch = if beginsLongT32 hw1 then s.fetchBytes [0, 1, 2, 3] else .ok hw1 := by
  simp [State.fetch, h, h1]

/-- A fetch that is refused refuses the step, for the same reason. -/
theorem step_of_fetch_error {s : State} {r : Refusal} (hp : s.preCheck = none) (h : s.fetch = .error r) :
    step s = .refused r := by
  simp [step, hp, h]

end Sys2Proof.Machine
end

