-- ==== Sys2Proof/Laws/Memory.lean ====
section
/-! SUPPORT. The laws of memory: a read after a write, and the canonical form that every write keeps. -/

namespace Sys2Proof.Machine

theorem Memory.read_write_same (m : Memory) (k : Nat) (v : Byte) : (m.write k v).read k = some v := by
  induction m with
  | nil => simp [Memory.write, Memory.read]
  | cons c rest ih =>
    obtain ⟨a, b⟩ := c
    unfold Memory.write
    split
    · simp [Memory.read]
    · split
      · simp [Memory.read]
      · rename_i h
        have : a ≠ k := fun e => h e.symm
        simp [Memory.read, this, ih]

theorem Memory.read_write_other (m : Memory) {k j : Nat} (v : Byte) (h : j ≠ k) : (m.write k v).read j = m.read j := by
  induction m with
  | nil => simp [Memory.write, Memory.read, h.symm]
  | cons c rest ih =>
    obtain ⟨a, b⟩ := c
    unfold Memory.write
    split
    · simp [Memory.read, h.symm]
    · split
      · rename_i e
        subst e
        simp [Memory.read, h.symm]
      · simp [Memory.read, ih]

theorem Memory.risingAbove_write {a k : Nat} {m : Memory} (v : Byte) (hk : a < k) (hm : Memory.risingAbove a m = true) :
    Memory.risingAbove a (m.write k v) = true := by
  induction m generalizing a with
  | nil => simpa [Memory.write, Memory.risingAbove] using hk
  | cons c rest ih =>
    obtain ⟨x, b⟩ := c
    simp only [Memory.risingAbove, Bool.and_eq_true, decide_eq_true_eq] at hm
    unfold Memory.write
    split
    · rename_i hlt
      simp [Memory.risingAbove, hk, hlt, hm.2]
    · split
      · rename_i e
        subst e
        simp [Memory.risingAbove, hk, hm.2]
      · rename_i h1 h2
        have hx : x < k := by omega
        simp [Memory.risingAbove, hm.1, ih hx hm.2]

theorem Memory.all_below_write {m : Memory} {k : Nat} (v : Byte) (hk : k < 2 ^ 32)
    (hm : m.all (fun c => c.1 < 2 ^ 32) = true) : (m.write k v).all (fun c => c.1 < 2 ^ 32) = true := by
  induction m with
  | nil => simpa [Memory.write] using hk
  | cons c rest ih =>
    obtain ⟨x, b⟩ := c
    rw [List.all_cons, Bool.and_eq_true] at hm
    have hk' : decide (k < 2 ^ 32) = true := decide_eq_true hk
    unfold Memory.write
    split
    · rw [List.all_cons, List.all_cons, hk', hm.1, hm.2]; rfl
    · split
      · rw [List.all_cons, hk', hm.2]; rfl
      · rw [List.all_cons, hm.1, ih hm.2]; rfl

/-- A write to an address of the space keeps the canonical form. -/
theorem Memory.write_wf {m : Memory} {k : Nat} (v : Byte) (hk : k < 2 ^ 32) (hm : m.wf = true) :
    (m.write k v).wf = true := by
  cases m with
  | nil => simpa [Memory.write, Memory.wf, Memory.risingAbove] using hk
  | cons c rest =>
    obtain ⟨x, b⟩ := c
    rw [Memory.wf, Bool.and_eq_true] at hm
    have hall := Memory.all_below_write v hk hm.2
    unfold Memory.write at hall ⊢
    split
    · rename_i hlt
      simp only [hlt, if_true] at hall
      rw [Memory.wf, hall, Memory.risingAbove, hm.1]
      simpa using hlt
    · rename_i hge
      simp only [hge, if_false] at hall
      split
      · rename_i e
        subst e
        simp only [if_true] at hall
        rw [Memory.wf, hall, hm.1]; rfl
      · rename_i hne
        simp only [hne, if_false] at hall
        have hx : x < k := by omega
        rw [Memory.wf, hall, Memory.risingAbove_write v hx hm.1]; rfl

/-- Loading bytes keeps the canonical form. -/
theorem placeBytes_wf {m : Memory} (a : Word) (bs : List Byte) (hm : m.wf = true) : (placeBytes m a bs).wf = true := by
  induction bs generalizing m a with
  | nil => exact hm
  | cons b bs ih => exact ih _ (Memory.write_wf b a.isLt hm)

/-- Four bytes placed where no address wraps are read back in their order (R51, R52). -/
theorem read_placeBytes (m : Memory) (a : Word) (b0 b1 b2 b3 : Byte) (h : a.toNat + 4 ≤ 0xFFFFFFFF) :
    (placeBytes m a [b0, b1, b2, b3]).read a.toNat = some b0 ∧
      (placeBytes m a [b0, b1, b2, b3]).read (a + 1#32).toNat = some b1 ∧
      (placeBytes m a [b0, b1, b2, b3]).read (a + 2#32).toNat = some b2 ∧
      (placeBytes m a [b0, b1, b2, b3]).read (a + 3#32).toNat = some b3 := by
  have e1 : (a + 1#32).toNat = a.toNat + 1 := by simp; omega
  have e2 : (a + 2#32).toNat = a.toNat + 2 := by simp; omega
  have e3 : (a + 3#32).toNat = a.toNat + 3 := by simp; omega
  have f2 : (a + 1#32 + 1#32).toNat = a.toNat + 2 := by simp; omega
  have f3 : (a + 1#32 + 1#32 + 1#32).toNat = a.toNat + 3 := by simp; omega
  simp only [placeBytes, e1, e2, e3, f2, f3]
  refine ⟨?_, ?_, ?_, ?_⟩
  · rw [Memory.read_write_other _ _ (by omega), Memory.read_write_other _ _ (by omega),
      Memory.read_write_other _ _ (by omega), Memory.read_write_same]
  · rw [Memory.read_write_other _ _ (by omega), Memory.read_write_other _ _ (by omega), Memory.read_write_same]
  · rw [Memory.read_write_other _ _ (by omega), Memory.read_write_same]
  · rw [Memory.read_write_same]

/-- A step leaves memory as it was, so its canonical form stays (R40, R55). -/
theorem State.afterStep_mem_wf {s : State} (d : Vector DWord Config.numDRegs) (h : s.mem.wf = true) :
    (s.afterStep d).mem.wf = true := h

/-- Placing a word for the next fetch keeps the canonical form. -/
theorem State.withFetchWord_mem_wf {s : State} (nbits w : Nat) (h : s.mem.wf = true) :
    (s.withFetchWord nbits w).mem.wf = true := placeBytes_wf _ _ h

/-- The memory after reset has the canonical form. -/
theorem reset_mem_wf : State.reset.mem.wf = true := by decide

end Sys2Proof.Machine
end

