-- ==== Sys2Proof/Laws/PerInstr.lean ====
section
/-! SUPPORT. The round trip, one lemma per constructor: the decoder reads from the encoder's bytes the instruction that was
encoded, and nothing is left over. -/

namespace Sys2Proof

theorem roundTrip_of_a32 {i : Instr} (hs : i.iset = .a32) (h : decodeA32 (encodeWord i) = .ok i) :
    decode i.iset (encode i) = .ok (i, []) := by
  rw [encode, hs, decode_layout_a32, h]; rfl

theorem roundTrip_of_t32 {i : Instr} (hs : i.iset = .t32) (hl : isLongT32 ((encodeWord i).extractLsb' 16 16) = true)
    (h : decodeT32 (encodeWord i) = .ok i) : decode i.iset (encode i) = .ok (i, []) := by
  rw [encode, hs, decode_layout_t32 _ hl, h]; rfl

/-! The five patterns of `cmode` and `op` (R71, R73 to R75). -/

theorem simdKind_i32 (c : BitVec 2) : simdKind 0#1 (0#1 ++ c ++ 0#1) = .ok (.i32 c) := by revert c; decide

theorem simdKind_i16 (c : BitVec 1) : simdKind 0#1 (0b10#2 ++ c ++ 0#1) = .ok (.i16 c) := by revert c; decide

theorem simdKind_i32Ones (c : BitVec 1) : simdKind 0#1 (0b110#3 ++ c) = .ok (.i32Ones c) := by revert c; decide

theorem simdKind_i8 : simdKind 0#1 0b1110#4 = .ok .i8 := by decide

theorem simdKind_f32 : simdKind 0#1 0b1111#4 = .ok .f32 := by decide

theorem simdKind_i64 : simdKind 1#1 0b1110#4 = .ok .i64 := by decide

/-! The three forms of a destination (R86, R89). -/

theorem simdDest_d (d : DReg) : simdDest 0#1 d = .d d := rfl

theorem simdDest_q (q : QReg) : simdDest 1#1 (q ++ 0#1) = .q q := by revert q; decide

theorem simdDest_undef (h : BitVec 4) : simdDest 1#1 (h ++ 1#1) = .undef h := by revert h; decide

/-- The register number of an S destination, taken apart and put together (R86). -/
theorem vdd_join (d : SReg) : d.extractLsb' 1 4 ++ d.extractLsb' 0 1 = d := by
  rw [extractLsb'_join d 0 4 1]; exact extractLsb'_whole d

/-- The register number of a D destination, taken apart and put together (R86). -/
theorem dvd_join (d : DReg) : d.extractLsb' 4 1 ++ d.extractLsb' 0 4 = d := by
  rw [extractLsb'_join d 0 1 4]; exact extractLsb'_whole d

theorem SbzBits.eq_clear {z : SbzBits} (h : z.isClear = true) : z = .clear := by
  obtain ⟨a, b⟩ := z
  revert h; cases a <;> cases b <;> decide

/-- The four values of two bits. -/
theorem cases_bv2 (c : BitVec 2) : c = 0#2 ∨ c = 1#2 ∨ c = 2#2 ∨ c = 3#2 := by revert c; decide

/-- Decoding the encoding of a well-formed instruction gives it back. -/
def Laws.RoundTrip.Statement (i : Instr) : Prop := i.wellFormed = true → decode i.iset (encode i) = .ok (i, [])

theorem Laws.RoundTrip.vmovI32A1D (c : BitVec 2) (d : DReg) (m : BitVec 8) : Statement (.vmovI32A1D c d m) := fun _ =>
  roundTrip_of_a32 rfl (by rw [encodeWord, decodeA32_simdWordA32, simdKind_i32, simdDest_d]; rfl)

theorem Laws.RoundTrip.vmovI32A1Q (c : BitVec 2) (q : QReg) (m : BitVec 8) : Statement (.vmovI32A1Q c q m) := fun _ =>
  roundTrip_of_a32 rfl (by rw [encodeWord, decodeA32_simdWordA32, simdKind_i32, simdDest_q]; rfl)

theorem Laws.RoundTrip.vmovI16A3D (c : BitVec 1) (d : DReg) (m : BitVec 8) : Statement (.vmovI16A3D c d m) := fun _ =>
  roundTrip_of_a32 rfl (by rw [encodeWord, decodeA32_simdWordA32, simdKind_i16, simdDest_d]; rfl)

theorem Laws.RoundTrip.vmovI16A3Q (c : BitVec 1) (q : QReg) (m : BitVec 8) : Statement (.vmovI16A3Q c q m) := fun _ =>
  roundTrip_of_a32 rfl (by rw [encodeWord, decodeA32_simdWordA32, simdKind_i16, simdDest_q]; rfl)

theorem Laws.RoundTrip.vmovI32A4D (c : BitVec 1) (d : DReg) (m : BitVec 8) : Statement (.vmovI32A4D c d m) := fun _ =>
  roundTrip_of_a32 rfl (by rw [encodeWord, decodeA32_simdWordA32, simdKind_i32Ones, simdDest_d]; rfl)

theorem Laws.RoundTrip.vmovI32A4Q (c : BitVec 1) (q : QReg) (m : BitVec 8) : Statement (.vmovI32A4Q c q m) := fun _ =>
  roundTrip_of_a32 rfl (by rw [encodeWord, decodeA32_simdWordA32, simdKind_i32Ones, simdDest_q]; rfl)

theorem Laws.RoundTrip.vmovI8A4D (d : DReg) (m : BitVec 8) : Statement (.vmovI8A4D d m) := fun _ =>
  roundTrip_of_a32 rfl (by rw [encodeWord, decodeA32_simdWordA32, simdKind_i8, simdDest_d]; rfl)

theorem Laws.RoundTrip.vmovI8A4Q (q : QReg) (m : BitVec 8) : Statement (.vmovI8A4Q q m) := fun _ =>
  roundTrip_of_a32 rfl (by rw [encodeWord, decodeA32_simdWordA32, simdKind_i8, simdDest_q]; rfl)

theorem Laws.RoundTrip.vmovF32A4D (d : DReg) (m : BitVec 8) : Statement (.vmovF32A4D d m) := fun _ =>
  roundTrip_of_a32 rfl (by rw [encodeWord, decodeA32_simdWordA32, simdKind_f32, simdDest_d]; rfl)

theorem Laws.RoundTrip.vmovF32A4Q (q : QReg) (m : BitVec 8) : Statement (.vmovF32A4Q q m) := fun _ =>
  roundTrip_of_a32 rfl (by rw [encodeWord, decodeA32_simdWordA32, simdKind_f32, simdDest_q]; rfl)

theorem Laws.RoundTrip.vmovI64A5D (d : DReg) (m : BitVec 8) : Statement (.vmovI64A5D d m) := fun _ =>
  roundTrip_of_a32 rfl (by rw [encodeWord, decodeA32_simdWordA32, simdKind_i64, simdDest_d]; rfl)

theorem Laws.RoundTrip.vmovI64A5Q (q : QReg) (m : BitVec 8) : Statement (.vmovI64A5Q q m) := fun _ =>
  roundTrip_of_a32 rfl (by rw [encodeWord, decodeA32_simdWordA32, simdKind_i64, simdDest_q]; rfl)

theorem Laws.RoundTrip.undefinedA1 (c : BitVec 2) (h : BitVec 4) (m : BitVec 8) : Statement (.undefinedA1 c h m) := fun _ =>
  roundTrip_of_a32 rfl (by rw [encodeWord, decodeA32_simdWordA32, simdKind_i32, simdDest_undef]; rfl)

theorem Laws.RoundTrip.undefinedA3 (c : BitVec 1) (h : BitVec 4) (m : BitVec 8) : Statement (.undefinedA3 c h m) := fun _ =>
  roundTrip_of_a32 rfl (by rw [encodeWord, decodeA32_simdWordA32, simdKind_i16, simdDest_undef]; rfl)

theorem Laws.RoundTrip.undefinedA5 (h : BitVec 4) (m : BitVec 8) : Statement (.undefinedA5 h m) := fun _ =>
  roundTrip_of_a32 rfl (by rw [encodeWord, decodeA32_simdWordA32, simdKind_i64, simdDest_undef]; rfl)

theorem Laws.RoundTrip.undefinedA4 (c : BitVec 2) (h : BitVec 4) (m : BitVec 8) : Statement (.undefinedA4 c h m) := fun _ =>
  roundTrip_of_a32 rfl (by
    have hk : (simdKind 0#1 (0b11#2 ++ c)).map (fun k => simdA32 m k (.undef h)) = .ok (.undefinedA4 c h m) := by
      obtain rfl | rfl | rfl | rfl : c = 0#2 ∨ c = 1#2 ∨ c = 2#2 ∨ c = 3#2 := cases_bv2 c
      all_goals rfl
    rw [encodeWord, decodeA32_simdWordA32, simdDest_undef, hk])

theorem Laws.RoundTrip.vmovI32T1D (c : BitVec 2) (d : DReg) (m : BitVec 8) : Statement (.vmovI32T1D c d m) := fun _ =>
  roundTrip_of_t32 rfl (isLongT32_simdWordT32 _ _ _ _ _) (by rw [encodeWord, decodeT32_simdWordT32, simdKind_i32, simdDest_d]; rfl)

theorem Laws.RoundTrip.vmovI32T1Q (c : BitVec 2) (q : QReg) (m : BitVec 8) : Statement (.vmovI32T1Q c q m) := fun _ =>
  roundTrip_of_t32 rfl (isLongT32_simdWordT32 _ _ _ _ _) (by rw [encodeWord, decodeT32_simdWordT32, simdKind_i32, simdDest_q]; rfl)

theorem Laws.RoundTrip.vmovI16T3D (c : BitVec 1) (d : DReg) (m : BitVec 8) : Statement (.vmovI16T3D c d m) := fun _ =>
  roundTrip_of_t32 rfl (isLongT32_simdWordT32 _ _ _ _ _) (by rw [encodeWord, decodeT32_simdWordT32, simdKind_i16, simdDest_d]; rfl)

theorem Laws.RoundTrip.vmovI16T3Q (c : BitVec 1) (q : QReg) (m : BitVec 8) : Statement (.vmovI16T3Q c q m) := fun _ =>
  roundTrip_of_t32 rfl (isLongT32_simdWordT32 _ _ _ _ _) (by rw [encodeWord, decodeT32_simdWordT32, simdKind_i16, simdDest_q]; rfl)

theorem Laws.RoundTrip.vmovI32T4D (c : BitVec 1) (d : DReg) (m : BitVec 8) : Statement (.vmovI32T4D c d m) := fun _ =>
  roundTrip_of_t32 rfl (isLongT32_simdWordT32 _ _ _ _ _) (by rw [encodeWord, decodeT32_simdWordT32, simdKind_i32Ones, simdDest_d]; rfl)

theorem Laws.RoundTrip.vmovI32T4Q (c : BitVec 1) (q : QReg) (m : BitVec 8) : Statement (.vmovI32T4Q c q m) := fun _ =>
  roundTrip_of_t32 rfl (isLongT32_simdWordT32 _ _ _ _ _) (by rw [encodeWord, decodeT32_simdWordT32, simdKind_i32Ones, simdDest_q]; rfl)

theorem Laws.RoundTrip.vmovI8T4D (d : DReg) (m : BitVec 8) : Statement (.vmovI8T4D d m) := fun _ =>
  roundTrip_of_t32 rfl (isLongT32_simdWordT32 _ _ _ _ _) (by rw [encodeWord, decodeT32_simdWordT32, simdKind_i8, simdDest_d]; rfl)

theorem Laws.RoundTrip.vmovI8T4Q (q : QReg) (m : BitVec 8) : Statement (.vmovI8T4Q q m) := fun _ =>
  roundTrip_of_t32 rfl (isLongT32_simdWordT32 _ _ _ _ _) (by rw [encodeWord, decodeT32_simdWordT32, simdKind_i8, simdDest_q]; rfl)

theorem Laws.RoundTrip.vmovF32T4D (d : DReg) (m : BitVec 8) : Statement (.vmovF32T4D d m) := fun _ =>
  roundTrip_of_t32 rfl (isLongT32_simdWordT32 _ _ _ _ _) (by rw [encodeWord, decodeT32_simdWordT32, simdKind_f32, simdDest_d]; rfl)

theorem Laws.RoundTrip.vmovF32T4Q (q : QReg) (m : BitVec 8) : Statement (.vmovF32T4Q q m) := fun _ =>
  roundTrip_of_t32 rfl (isLongT32_simdWordT32 _ _ _ _ _) (by rw [encodeWord, decodeT32_simdWordT32, simdKind_f32, simdDest_q]; rfl)

theorem Laws.RoundTrip.vmovI64T5D (d : DReg) (m : BitVec 8) : Statement (.vmovI64T5D d m) := fun _ =>
  roundTrip_of_t32 rfl (isLongT32_simdWordT32 _ _ _ _ _) (by rw [encodeWord, decodeT32_simdWordT32, simdKind_i64, simdDest_d]; rfl)

theorem Laws.RoundTrip.vmovI64T5Q (q : QReg) (m : BitVec 8) : Statement (.vmovI64T5Q q m) := fun _ =>
  roundTrip_of_t32 rfl (isLongT32_simdWordT32 _ _ _ _ _) (by rw [encodeWord, decodeT32_simdWordT32, simdKind_i64, simdDest_q]; rfl)

theorem Laws.RoundTrip.undefinedT1 (c : BitVec 2) (h : BitVec 4) (m : BitVec 8) : Statement (.undefinedT1 c h m) := fun _ =>
  roundTrip_of_t32 rfl (isLongT32_simdWordT32 _ _ _ _ _) (by rw [encodeWord, decodeT32_simdWordT32, simdKind_i32, simdDest_undef]; rfl)

theorem Laws.RoundTrip.undefinedT3 (c : BitVec 1) (h : BitVec 4) (m : BitVec 8) : Statement (.undefinedT3 c h m) := fun _ =>
  roundTrip_of_t32 rfl (isLongT32_simdWordT32 _ _ _ _ _) (by rw [encodeWord, decodeT32_simdWordT32, simdKind_i16, simdDest_undef]; rfl)

theorem Laws.RoundTrip.undefinedT5 (h : BitVec 4) (m : BitVec 8) : Statement (.undefinedT5 h m) := fun _ =>
  roundTrip_of_t32 rfl (isLongT32_simdWordT32 _ _ _ _ _) (by rw [encodeWord, decodeT32_simdWordT32, simdKind_i64, simdDest_undef]; rfl)

theorem Laws.RoundTrip.undefinedT4 (c : BitVec 2) (h : BitVec 4) (m : BitVec 8) : Statement (.undefinedT4 c h m) := fun _ =>
  roundTrip_of_t32 rfl (isLongT32_simdWordT32 _ _ _ _ _) (by
    have hk : (simdKind 0#1 (0b11#2 ++ c)).map (fun k => simdT32 m k (.undef h)) = .ok (.undefinedT4 c h m) := by
      obtain rfl | rfl | rfl | rfl : c = 0#2 ∨ c = 1#2 ∨ c = 2#2 ∨ c = 3#2 := cases_bv2 c
      all_goals rfl
    rw [encodeWord, decodeT32_simdWordT32, simdDest_undef, hk])

theorem Laws.RoundTrip.vmovF16A2 (c : Cond) (d : BitVec 5) (m : BitVec 8) (z : SbzBits) : Statement (.vmovF16A2 c d m z) := by
  intro h
  rw [Instr.wellFormed, Bool.and_eq_true] at h
  obtain rfl := SbzBits.eq_clear h.2
  refine roundTrip_of_a32 rfl ?_
  rw [encodeWord, decodeA32_fpWord _ _ _ _ _ (Cond.toBits_ne_nv h.1), Cond.ofBits_toBits, vdd_join]
  rfl

theorem Laws.RoundTrip.vmovF32A2 (c : Cond) (d : BitVec 5) (m : BitVec 8) (z : SbzBits) : Statement (.vmovF32A2 c d m z) := by
  intro h
  rw [Instr.wellFormed, Bool.and_eq_true] at h
  obtain rfl := SbzBits.eq_clear h.2
  refine roundTrip_of_a32 rfl ?_
  rw [encodeWord, decodeA32_fpWord _ _ _ _ _ (Cond.toBits_ne_nv h.1), Cond.ofBits_toBits, vdd_join]
  rfl

theorem Laws.RoundTrip.vmovF64A2 (c : Cond) (d : BitVec 5) (m : BitVec 8) (z : SbzBits) : Statement (.vmovF64A2 c d m z) := by
  intro h
  rw [Instr.wellFormed, Bool.and_eq_true] at h
  obtain rfl := SbzBits.eq_clear h.2
  refine roundTrip_of_a32 rfl ?_
  rw [encodeWord, decodeA32_fpWord _ _ _ _ _ (Cond.toBits_ne_nv h.1), Cond.ofBits_toBits, dvd_join]
  rfl

theorem Laws.RoundTrip.undefinedA2 (c : Cond) (d : BitVec 5) (m : BitVec 8) (z : SbzBits) : Statement (.undefinedA2 c d m z) := by
  intro h
  rw [Instr.wellFormed, Bool.and_eq_true] at h
  obtain rfl := SbzBits.eq_clear h.2
  refine roundTrip_of_a32 rfl ?_
  rw [encodeWord, decodeA32_fpWord _ _ _ _ _ (Cond.toBits_ne_nv h.1), Cond.ofBits_toBits, dvd_join]
  rfl

theorem Laws.RoundTrip.vmovF16T2 (d : BitVec 5) (m : BitVec 8) (z : SbzBits) : Statement (.vmovF16T2 d m z) := by
  intro h
  obtain rfl := SbzBits.eq_clear h
  refine roundTrip_of_t32 rfl (isLongT32_fpWord _ _ _ _) ?_
  rw [encodeWord, decodeT32_fpWord, vdd_join]
  rfl

theorem Laws.RoundTrip.vmovF32T2 (d : BitVec 5) (m : BitVec 8) (z : SbzBits) : Statement (.vmovF32T2 d m z) := by
  intro h
  obtain rfl := SbzBits.eq_clear h
  refine roundTrip_of_t32 rfl (isLongT32_fpWord _ _ _ _) ?_
  rw [encodeWord, decodeT32_fpWord, vdd_join]
  rfl

theorem Laws.RoundTrip.vmovF64T2 (d : BitVec 5) (m : BitVec 8) (z : SbzBits) : Statement (.vmovF64T2 d m z) := by
  intro h
  obtain rfl := SbzBits.eq_clear h
  refine roundTrip_of_t32 rfl (isLongT32_fpWord _ _ _ _) ?_
  rw [encodeWord, decodeT32_fpWord, dvd_join]
  rfl

theorem Laws.RoundTrip.undefinedT2 (d : BitVec 5) (m : BitVec 8) (z : SbzBits) : Statement (.undefinedT2 d m z) := by
  intro h
  obtain rfl := SbzBits.eq_clear h
  refine roundTrip_of_t32 rfl (isLongT32_fpWord _ _ _ _) ?_
  rw [encodeWord, decodeT32_fpWord, dvd_join]
  rfl

end Sys2Proof
end

