-- ==== Sys2Proof/Laws/Write.lean ====
section
/-! SUPPORT. What the register writes can do: reads after writes, and the D registers after the result write of each kind of
binding. -/

namespace Sys2Proof.Machine

theorem State.readD_writeD_same (s : State) (n : DReg) (v : DWord) : (s.writeD n v).readD n = v := by
  simp [State.readD]

theorem State.readD_writeD_other (s : State) {n m : DReg} (v : DWord) (h : m ≠ n) :
    (s.writeD n v).readD m = s.readD m := by
  have : n.toNat ≠ m.toNat := fun e => h (BitVec.eq_of_toNat_eq e.symm)
  simp [State.readD, this]

theorem State.readD_afterStep (s : State) (d : Vector DWord Config.numDRegs) (n : DReg) :
    (s.afterStep d).readD n = d[n.toNat]'n.isLt := rfl

theorem State.readD_dregsWith (s : State) (which : Nat → Bool) (v : DWord) (n : DReg) :
    (s.afterStep (s.dregsWith which v)).readD n = if which n.toNat then v else s.readD n := by
  simp [State.readD, State.dregsWith]

/-- The number of the D register that holds `S[n]` (R21). -/
theorem sHome_toNat (n : SReg) : (sHome n).toNat = n.toNat / 2 := by
  simp [sHome, BitVec.toNat_ushiftRight, Nat.shiftRight_eq_div_pow]

/-- The even register of a pair (R25). -/
theorem toNat_pair_even (q : QReg) : (q ++ 0#1 : DReg).toNat = 2 * q.toNat := by
  revert q; decide

/-- The odd register of a pair is the next one, with no wrap (R110). -/
theorem toNat_pair_odd (q : QReg) : ((q ++ 0#1 : DReg) + BitVec.ofNat 5 1).toNat = 2 * q.toNat + 1 := by
  revert q; decide

theorem getLsbD_zero_toNat (n : SReg) : n.getLsbD 0 = decide (n.toNat % 2 = 1) := by
  revert n; decide

/-- A D write: one D register (R20). -/
theorem State.writeD_dregsWith (s : State) (d : DReg) (v : DWord) :
    (s.writeD d v).dregs = s.dregsWith (· == d.toNat) v := by
  ext k hk
  simp only [State.writeD_dregs, State.dregsWith, Vector.getElem_set, Vector.getElem_ofFn, beq_iff_eq]
  by_cases h : d.toNat = k
  · simp [h]
  · have h' : ¬ k = d.toNat := fun e => h e.symm
    simp [h, h']

/-- The result write of a 64-bit Advanced SIMD row: one D register (R110). -/
theorem State.writeResult_bindD (s : State) (op : BitVec 1) (cmode : BitVec 4) (m : BitVec 8) (d : DReg) :
    (s.writeResult (bindD op cmode m d)).dregs = s.dregsWith (· == d.toNat) (advSIMDExpandImm op cmode m) := by
  have h : s.writeResult (bindD op cmode m d) = s.writeD d (advSIMDExpandImm op cmode m) := by
    simp [State.writeResult, bindD, State.writeDs]
  rw [h, State.writeD_dregsWith]

/-- The result write of a 128-bit Advanced SIMD row: the two D registers of the pair (R22, R110). -/
theorem State.writeResult_bindQ (s : State) (op : BitVec 1) (cmode : BitVec 4) (m : BitVec 8) (q : QReg) :
    (s.writeResult (bindQ op cmode m q)).dregs = s.dregsWith (· / 2 == q.toNat) (advSIMDExpandImm op cmode m) := by
  have h : s.writeResult (bindQ op cmode m q) =
      (s.writeD (q ++ 0#1) (advSIMDExpandImm op cmode m)).writeD ((q ++ 0#1) + BitVec.ofNat 5 1)
        (advSIMDExpandImm op cmode m) := by
    simp [State.writeResult, bindQ, State.writeDs]
  rw [h]
  ext k hk
  simp only [State.writeD_dregs, State.dregsWith, Vector.getElem_set, toNat_pair_even, toNat_pair_odd, Vector.getElem_ofFn,
    beq_iff_eq]
  by_cases h1 : 2 * q.toNat + 1 = k
  · have : k / 2 = q.toNat := by omega
    simp [h1, this]
  · by_cases h0 : 2 * q.toNat = k
    · have : k / 2 = q.toNat := by omega
      simp [h0, this]
    · have : ¬ k / 2 = q.toNat := by omega
      simp [h1, h0, this]

/-- An S write: half of one D register (R21). -/
theorem State.writeS_dregs (s : State) (n : SReg) (v : Word) : (s.writeS n v).dregs = s.dregsWithS n v := by
  ext k hk
  simp only [State.writeS, State.writeD_dregs, State.dregsWithS, Vector.getElem_set, sHome_toNat, Vector.getElem_ofFn,
    getLsbD_zero_toNat]
  by_cases h : n.toNat / 2 = k
  · have h' : k = n.toNat / 2 := h.symm
    rcases Nat.mod_two_eq_zero_or_one n.toNat with e | e <;>
      · subst h'; simp [e, State.readD, sHome_toNat]
  · have h' : ¬ k = n.toNat / 2 := fun e => h e.symm
    simp [h, h']

/-- The result write of a half-precision row: the constant zero-extended to 32 bits (R109, C1). -/
theorem State.writeResult_bindFP_half (s : State) (m : BitVec 8) (d : SReg) :
    (s.writeResult (bindFP .half m d)).dregs = s.dregsWithS d (0#16 ++ vfpExpandImm16 m) := by
  have h : s.writeResult (bindFP .half m d) = s.writeS d (((vfpExpandImm16 m).setWidth 64).setWidth 32) := rfl
  have e : ((vfpExpandImm16 m).setWidth 64).setWidth 32 = 0#16 ++ vfpExpandImm16 m := by
    apply BitVec.eq_of_getLsbD_eq
    intro i hi
    simp only [BitVec.getLsbD_setWidth, BitVec.getLsbD_append, BitVec.getLsbD_zero]
    by_cases h16 : i < 16
    · simp [h16, hi, show i < 64 by omega]
    · simp [h16, BitVec.getLsbD_of_ge _ i (by omega : 16 ≤ i)]
  rw [h, State.writeS_dregs, e]

/-- The result write of a single-precision row (R109). -/
theorem State.writeResult_bindFP_single (s : State) (m : BitVec 8) (d : SReg) :
    (s.writeResult (bindFP .single m d)).dregs = s.dregsWithS d (vfpExpandImm32 m) := by
  have h : s.writeResult (bindFP .single m d) = s.writeS d (((vfpExpandImm32 m).setWidth 64).setWidth 32) := rfl
  have e : ((vfpExpandImm32 m).setWidth 64).setWidth 32 = vfpExpandImm32 m := by
    generalize vfpExpandImm32 m = x
    apply BitVec.eq_of_toNat_eq
    simp
  rw [h, State.writeS_dregs, e]

/-- The result write of a double-precision row (R110). -/
theorem State.writeResult_bindFP_double (s : State) (m : BitVec 8) (d : DReg) :
    (s.writeResult (bindFP .double m d)).dregs = s.dregsWith (· == d.toNat) (vfpExpandImm64 m) := by
  have h : s.writeResult (bindFP .double m d) = s.writeD d (vfpExpandImm64 m) := by
    simp [State.writeResult, bindFP, State.writeDs, FpSize.esize]
  rw [h, State.writeD_dregsWith]

end Sys2Proof.Machine
end

