-- ==== Sys2Proof/Tests/Slice0.lean ====
section
/-! SUPPORT. Tests: words written out from the encodings, one step per row from the vectors of 95_test_vectors.md, the checks of
WellFormed, and a concrete state and operands for the hypotheses of every statement. -/

namespace Sys2Proof.Tests

open Sys2Proof.Machine

/-! Helpers. -/

/-- A small state: `pc` at 0x8000, every D register as in 95_test_vectors.md 2.3, the given CPSR. -/
def start (cpsr : Word) : State :=
  { State.reset with cpsr := cpsr, pc := 0x8000#32, dregs := Vector.replicate Config.numDRegs 0xAAAAAAAABBBBBBBB#64 }

/-- A32 state. -/
def a32 : State := start 0x000001D3#32

/-- T32 state outside an IT block. -/
def t32 : State := start 0x000001F3#32

/-- T32 state in an IT block whose last instruction has the condition EQ (`ITSTATE = 0x08`), Z clear. -/
def t32EQ : State := start 0x000009F3#32

/-- The same with Z set. -/
def t32EQZ : State := start 0x400009F3#32

/-- A word placed at `pc`, in the byte order of the state's instruction set. -/
def placed (s : State) (w : Word) : State := { s with mem := placeBytes s.mem s.pc (layout s.iset w) }

/-- The given bytes listed from `pc` on, and no other. -/
def listing (s : State) (bytes : List Byte) : State := { s with mem := placeBytes [] s.pc bytes }

/-- The next state of an outcome. -/
def nextOf : Outcome → Option State
  | .next t => some t
  | .fault _ => none
  | .refused _ => none

/-- The fault of an outcome. -/
def faultOf : Outcome → Option Fault
  | .next _ => none
  | .fault f => some f
  | .refused _ => none

/-- The refusal of an outcome. -/
def refusalOf : Outcome → Option Refusal
  | .next _ => none
  | .fault _ => none
  | .refused r => some r

theorem next_of {o : Outcome} (h : (nextOf o).isSome = true) : ∃ t, o = .next t := by
  cases o with
  | next t => exact ⟨t, rfl⟩
  | fault f => cases h
  | refused r => cases h

theorem fault_of {o : Outcome} {f : Fault} (h : faultOf o = some f) : o = .fault f := by
  cases o with
  | next t => cases h
  | fault g => injection h with h; rw [h]
  | refused r => cases h

theorem refusal_of {o : Outcome} {r : Refusal} (h : refusalOf o = some r) : o = .refused r := by
  cases o with
  | next t => cases h
  | fault g => cases h
  | refused q => injection h with h; rw [h]

/-- What a step leaves in two D registers and in `pc`. -/
def seen (s : State) (n m : DReg) : Option (DWord × DWord × Word) :=
  (nextOf (step s)).map fun t => (t.readD n, t.readD m, t.pc)

/-! WellFormed refuses an ill-formed term, for each of its checks. -/

theorem test_wellFormed_refuses_cond_1111 : (Instr.vmovF32A2 .nv 0#5 0x70#8 .clear).wellFormed = false := by decide
theorem test_wellFormed_refuses_bit7 : (Instr.vmovF64A2 .al 0#5 0x70#8 { bit7 := true, bit5 := false }).wellFormed = false := by
  decide
theorem test_wellFormed_refuses_bit5 : (Instr.vmovF16T2 0#5 0x70#8 { bit7 := false, bit5 := true }).wellFormed = false := by
  decide
theorem test_wellFormed_accepts : (Instr.undefinedA2 .le 0#5 0x70#8 .clear).wellFormed = true := by decide

/-! Decoding: each word is written field by field from the diagrams of R66 to R69. -/

theorem test_decode_A1 : 
    decodeA32 0b1111001_1_1_1_000_010_0110_0010_0_0_0_1_1100#32 = .ok (.vmovI32A1D 0b01#2 0b10110#5 0b1_010_1100#8) ∧
      decodeA32 0b1111001_1_1_1_000_010_0110_0100_0_1_0_1_1100#32 = .ok (.vmovI32A1Q 0b10#2 0b1011#4 0b1_010_1100#8) ∧
      decodeA32 0b1111001_1_1_1_000_010_0111_0110_0_1_0_1_1100#32 = .ok (.undefinedA1 0b11#2 0b1011#4 0b1_010_1100#8) := by
  decide

theorem test_decode_A3 : 
    decodeA32 0b1111001_1_1_0_000_010_1101_1000_0_0_0_1_1100#32 = .ok (.vmovI16A3D 0b0#1 0b01101#5 0b1_010_1100#8) ∧
      decodeA32 0b1111001_1_1_0_000_010_1100_1010_0_1_0_1_1100#32 = .ok (.vmovI16A3Q 0b1#1 0b0110#4 0b1_010_1100#8) ∧
      decodeA32 0b1111001_1_1_0_000_010_1101_1010_0_1_0_1_1100#32 = .ok (.undefinedA3 0b1#1 0b0110#4 0b1_010_1100#8) := by
  decide

theorem test_decode_A4 : 
    decodeA32 0b1111001_1_1_1_000_010_0010_1101_0_0_0_1_1100#32 = .ok (.vmovI32A4D 0b1#1 0b10010#5 0b1_010_1100#8) ∧
      decodeA32 0b1111001_1_1_1_000_010_0010_1100_0_1_0_1_1100#32 = .ok (.vmovI32A4Q 0b0#1 0b1001#4 0b1_010_1100#8) ∧
      decodeA32 0b1111001_1_1_0_000_010_1011_1110_0_0_0_1_1100#32 = .ok (.vmovI8A4D 0b01011#5 0b1_010_1100#8) ∧
      decodeA32 0b1111001_1_1_0_000_010_1010_1110_0_1_0_1_1100#32 = .ok (.vmovI8A4Q 0b0101#4 0b1_010_1100#8) ∧
      decodeA32 0b1111001_1_1_1_000_010_1110_1111_0_0_0_1_1100#32 = .ok (.vmovF32A4D 0b11110#5 0b1_010_1100#8) ∧
      decodeA32 0b1111001_1_1_1_000_010_1110_1111_0_1_0_1_1100#32 = .ok (.vmovF32A4Q 0b1111#4 0b1_010_1100#8) ∧
      decodeA32 0b1111001_1_1_1_000_010_1011_1101_0_1_0_1_1100#32 = .ok (.undefinedA4 0b01#2 0b1101#4 0b1_010_1100#8) ∧
      decodeA32 0b1111001_1_1_1_000_010_1011_1110_0_1_0_1_1100#32 = .ok (.undefinedA4 0b10#2 0b1101#4 0b1_010_1100#8) := by
  decide

theorem test_decode_A5 : 
    decodeA32 0b1111001_1_1_0_000_010_0111_1110_0_0_1_1_1100#32 = .ok (.vmovI64A5D 0b00111#5 0b1_010_1100#8) ∧
      decodeA32 0b1111001_1_1_0_000_010_0110_1110_0_1_1_1_1100#32 = .ok (.vmovI64A5Q 0b0011#4 0b1_010_1100#8) ∧
      decodeA32 0b1111001_1_1_0_000_010_0111_1110_0_1_1_1_1100#32 = .ok (.undefinedA5 0b0011#4 0b1_010_1100#8) := by
  decide

theorem test_decode_T1 : 
    decodeT32 0b111_1_11111_1_000_010_0110_0010_0_0_0_1_1100#32 = .ok (.vmovI32T1D 0b01#2 0b10110#5 0b1_010_1100#8) ∧
      decodeT32 0b111_1_11111_1_000_010_0110_0100_0_1_0_1_1100#32 = .ok (.vmovI32T1Q 0b10#2 0b1011#4 0b1_010_1100#8) ∧
      decodeT32 0b111_1_11111_1_000_010_0111_0110_0_1_0_1_1100#32 = .ok (.undefinedT1 0b11#2 0b1011#4 0b1_010_1100#8) := by
  decide

theorem test_decode_T3 : 
    decodeT32 0b111_1_11111_0_000_010_1101_1000_0_0_0_1_1100#32 = .ok (.vmovI16T3D 0b0#1 0b01101#5 0b1_010_1100#8) ∧
      decodeT32 0b111_1_11111_0_000_010_1100_1010_0_1_0_1_1100#32 = .ok (.vmovI16T3Q 0b1#1 0b0110#4 0b1_010_1100#8) ∧
      decodeT32 0b111_1_11111_0_000_010_1101_1010_0_1_0_1_1100#32 = .ok (.undefinedT3 0b1#1 0b0110#4 0b1_010_1100#8) := by
  decide

theorem test_decode_T4 : 
    decodeT32 0b111_1_11111_1_000_010_0010_1101_0_0_0_1_1100#32 = .ok (.vmovI32T4D 0b1#1 0b10010#5 0b1_010_1100#8) ∧
      decodeT32 0b111_1_11111_1_000_010_0010_1100_0_1_0_1_1100#32 = .ok (.vmovI32T4Q 0b0#1 0b1001#4 0b1_010_1100#8) ∧
      decodeT32 0b111_1_11111_0_000_010_1011_1110_0_0_0_1_1100#32 = .ok (.vmovI8T4D 0b01011#5 0b1_010_1100#8) ∧
      decodeT32 0b111_1_11111_0_000_010_1010_1110_0_1_0_1_1100#32 = .ok (.vmovI8T4Q 0b0101#4 0b1_010_1100#8) ∧
      decodeT32 0b111_1_11111_1_000_010_1110_1111_0_0_0_1_1100#32 = .ok (.vmovF32T4D 0b11110#5 0b1_010_1100#8) ∧
      decodeT32 0b111_1_11111_1_000_010_1110_1111_0_1_0_1_1100#32 = .ok (.vmovF32T4Q 0b1111#4 0b1_010_1100#8) ∧
      decodeT32 0b111_1_11111_1_000_010_1011_1101_0_1_0_1_1100#32 = .ok (.undefinedT4 0b01#2 0b1101#4 0b1_010_1100#8) ∧
      decodeT32 0b111_1_11111_1_000_010_1011_1110_0_1_0_1_1100#32 = .ok (.undefinedT4 0b10#2 0b1101#4 0b1_010_1100#8) := by
  decide

theorem test_decode_T5 : 
    decodeT32 0b111_1_11111_0_000_010_0111_1110_0_0_1_1_1100#32 = .ok (.vmovI64T5D 0b00111#5 0b1_010_1100#8) ∧
      decodeT32 0b111_1_11111_0_000_010_0110_1110_0_1_1_1_1100#32 = .ok (.vmovI64T5Q 0b0011#4 0b1_010_1100#8) ∧
      decodeT32 0b111_1_11111_0_000_010_0111_1110_0_1_1_1_1100#32 = .ok (.undefinedT5 0b0011#4 0b1_010_1100#8) := by
  decide

theorem test_decode_A2 : 
    decodeA32 0b0000_11101_1_11_1001_0011_10_01_0_0_0_0_0110#32 = .ok (.vmovF16A2 .eq 0b00111#5 0b1001_0110#8 .clear) ∧
      decodeA32 0b1011_11101_1_11_1001_0011_10_10_0_0_0_0_0110#32 = .ok (.vmovF32A2 .lt 0b00111#5 0b1001_0110#8 .clear) ∧
      decodeA32 0b1110_11101_1_11_1001_0011_10_11_0_0_0_0_0110#32 = .ok (.vmovF64A2 .al 0b10011#5 0b1001_0110#8 .clear) ∧
      decodeA32 0b0001_11101_1_11_1001_0011_10_00_1_0_0_0_0110#32 = .ok (.undefinedA2 .ne 0b10011#5 0b1001_0110#8 ⟨true, false⟩) := by
  decide

theorem test_decode_T2 : 
    decodeT32 0b1110_11101_0_11_1001_0011_10_01_0_0_0_0_0110#32 = .ok (.vmovF16T2 0b00110#5 0b1001_0110#8 .clear) ∧
      decodeT32 0b1110_11101_0_11_1001_0011_10_10_0_0_1_0_0110#32 = .ok (.vmovF32T2 0b00110#5 0b1001_0110#8 ⟨false, true⟩) ∧
      decodeT32 0b1110_11101_0_11_1001_0011_10_11_0_0_0_0_0110#32 = .ok (.vmovF64T2 0b00011#5 0b1001_0110#8 .clear) ∧
      decodeT32 0b1110_11101_1_11_1001_0011_10_00_0_0_0_0_0110#32 = .ok (.undefinedT2 0b10011#5 0b1001_0110#8 .clear) := by
  decide

/-! One step per row, from 95_test_vectors.md 2.2 and 2.3 (the 128-bit I32 row of A4 and T4 by hand from R83). -/

theorem test_A1D : seen (placed a32 0xF382121B#32) 1#5 0#5 = some (0x0000AB000000AB00#64, 0xAAAAAAAABBBBBBBB#64, 0x8004#32) := by decide

theorem test_T1D : seen (placed t32 0xFF82121B#32) 1#5 0#5 = some (0x0000AB000000AB00#64, 0xAAAAAAAABBBBBBBB#64, 0x8004#32) := by decide

theorem test_A1Q : seen (placed a32 0xF387265F#32) 2#5 3#5 = some (0xFF000000FF000000#64, 0xFF000000FF000000#64, 0x8004#32) := by decide

theorem test_T1Q : seen (placed t32 0xFF87265F#32) 2#5 3#5 = some (0xFF000000FF000000#64, 0xFF000000FF000000#64, 0x8004#32) := by decide

theorem test_A3D : seen (placed a32 0xF387581F#32) 5#5 4#5 = some (0x00FF00FF00FF00FF#64, 0xAAAAAAAABBBBBBBB#64, 0x8004#32) := by decide

theorem test_T3D : seen (placed t32 0xFF87581F#32) 5#5 4#5 = some (0x00FF00FF00FF00FF#64, 0xAAAAAAAABBBBBBBB#64, 0x8004#32) := by decide

theorem test_A3Q : seen (placed a32 0xF3C0EA50#32) 30#5 31#5 = some (0x8000800080008000#64, 0x8000800080008000#64, 0x8004#32) := by decide

theorem test_T3Q : seen (placed t32 0xFFC0EA50#32) 30#5 31#5 = some (0x8000800080008000#64, 0x8000800080008000#64, 0x8004#32) := by decide

theorem test_A4_I32_D : seen (placed a32 0xF2C1FD12#32) 31#5 30#5 = some (0x0012FFFF0012FFFF#64, 0xAAAAAAAABBBBBBBB#64, 0x8004#32) := by decide

theorem test_T4_I32_D : seen (placed t32 0xEFC1FD12#32) 31#5 30#5 = some (0x0012FFFF0012FFFF#64, 0xAAAAAAAABBBBBBBB#64, 0x8004#32) := by decide

theorem test_A4_I32_Q : seen (placed a32 0xF2C20C50#32) 16#5 17#5 = some (0x000020FF000020FF#64, 0x000020FF000020FF#64, 0x8004#32) := by decide

theorem test_T4_I32_Q : seen (placed t32 0xEFC20C50#32) 16#5 17#5 = some (0x000020FF000020FF#64, 0x000020FF000020FF#64, 0x8004#32) := by decide

theorem test_A4_I8_D : seen (placed a32 0xF2C00E18#32) 16#5 17#5 = some (0x0808080808080808#64, 0xAAAAAAAABBBBBBBB#64, 0x8004#32) := by decide

theorem test_T4_I8_D : seen (placed t32 0xEFC00E18#32) 16#5 17#5 = some (0x0808080808080808#64, 0xAAAAAAAABBBBBBBB#64, 0x8004#32) := by decide

theorem test_A4_I8_Q : seen (placed a32 0xF3870E5F#32) 0#5 1#5 = some (0xFFFFFFFFFFFFFFFF#64, 0xFFFFFFFFFFFFFFFF#64, 0x8004#32) := by decide

theorem test_T4_I8_Q : seen (placed t32 0xFF870E5F#32) 0#5 1#5 = some (0xFFFFFFFFFFFFFFFF#64, 0xFFFFFFFFFFFFFFFF#64, 0x8004#32) := by decide

theorem test_A4_F32_D : seen (placed a32 0xF2833F1F#32) 3#5 2#5 = some (0x41F8000041F80000#64, 0xAAAAAAAABBBBBBBB#64, 0x8004#32) := by decide

theorem test_T4_F32_D : seen (placed t32 0xEF833F1F#32) 3#5 2#5 = some (0x41F8000041F80000#64, 0xAAAAAAAABBBBBBBB#64, 0x8004#32) := by decide

theorem test_A4_F32_Q : seen (placed a32 0xF3844F50#32) 4#5 5#5 = some (0xBE000000BE000000#64, 0xBE000000BE000000#64, 0x8004#32) := by decide

theorem test_T4_F32_Q : seen (placed t32 0xFF844F50#32) 4#5 5#5 = some (0xBE000000BE000000#64, 0xBE000000BE000000#64, 0x8004#32) := by decide

theorem test_A5D : seen (placed a32 0xF3C10E33#32) 16#5 17#5 = some (0xFF0000FF0000FFFF#64, 0xAAAAAAAABBBBBBBB#64, 0x8004#32) := by decide

theorem test_T5D : seen (placed t32 0xFFC10E33#32) 16#5 17#5 = some (0xFF0000FF0000FFFF#64, 0xAAAAAAAABBBBBBBB#64, 0x8004#32) := by decide

theorem test_A5Q : seen (placed a32 0xF2856E75#32) 6#5 7#5 = some (0x00FF00FF00FF00FF#64, 0x00FF00FF00FF00FF#64, 0x8004#32) := by decide

theorem test_T5Q : seen (placed t32 0xEF856E75#32) 6#5 7#5 = some (0x00FF00FF00FF00FF#64, 0x00FF00FF00FF00FF#64, 0x8004#32) := by decide

theorem test_A2_F16 : seen (placed a32 0xEEFB290F#32) 2#5 3#5 = some (0x0000CFC0BBBBBBBB#64, 0xAAAAAAAABBBBBBBB#64, 0x8004#32) := by decide

theorem test_T2_F16 : seen (placed t32 0xEEFB290F#32) 2#5 3#5 = some (0x0000CFC0BBBBBBBB#64, 0xAAAAAAAABBBBBBBB#64, 0x8004#32) := by decide

theorem test_A2_F32 : seen (placed a32 0xEEB30A0F#32) 0#5 1#5 = some (0xAAAAAAAA41F80000#64, 0xAAAAAAAABBBBBBBB#64, 0x8004#32) := by decide

theorem test_T2_F32 : seen (placed t32 0xEEB30A0F#32) 0#5 1#5 = some (0xAAAAAAAA41F80000#64, 0xAAAAAAAABBBBBBBB#64, 0x8004#32) := by decide

theorem test_A2_F64 : seen (placed a32 0xEEF80B04#32) 16#5 17#5 = some (0xC004000000000000#64, 0xAAAAAAAABBBBBBBB#64, 0x8004#32) := by decide

theorem test_T2_F64 : seen (placed t32 0xEEF80B04#32) 16#5 17#5 = some (0xC004000000000000#64, 0xAAAAAAAABBBBBBBB#64, 0x8004#32) := by decide

/-! The rows that are UNDEFINED by their encoding (2.6; the others by hand from R89). -/

theorem test_undefined_A1 : faultOf (step (placed a32 0xF2801050#32)) = some (.undefined 0x8000#32) := by decide

theorem test_undefined_A3 : faultOf (step (placed a32 0xF2801850#32)) = some (.undefined 0x8000#32) := by decide

theorem test_undefined_A4 : faultOf (step (placed a32 0xF2801E50#32)) = some (.undefined 0x8000#32) := by decide

theorem test_undefined_A5 : faultOf (step (placed a32 0xF3C7FE7F#32)) = some (.undefined 0x8000#32) := by decide

theorem test_undefined_A2 : faultOf (step (placed a32 0xEEB70800#32)) = some (.undefined 0x8000#32) := by decide

theorem test_undefined_T1 : faultOf (step (placed t32 0xEF801050#32)) = some (.undefined 0x8000#32) := by decide

theorem test_undefined_T3 : faultOf (step (placed t32 0xEF801850#32)) = some (.undefined 0x8000#32) := by decide

theorem test_undefined_T4 : faultOf (step (placed t32 0xEF801E50#32)) = some (.undefined 0x8000#32) := by decide

theorem test_undefined_T5 : faultOf (step (placed t32 0xFFC7FE7F#32)) = some (.undefined 0x8000#32) := by decide

theorem test_undefined_T2 : faultOf (step (placed t32 0xEEB70800#32)) = some (.undefined 0x8000#32) := by decide

/-! Faults, refusals and the draw (2.6). -/

theorem test_noFP16 : faultOf (step (placed { a32 with hasFP16 := false } 0x1EB71900#32)) = some (.undefined 0x8000#32) := by decide

theorem test_conditional_half : refusalOf (step (placed a32 0x1EB71900#32)) = some (.unpredictable) := by decide

theorem test_conditional_half_failing : refusalOf (step (placed { a32 with cpsr := 0x400001D3#32 } 0x1EB71900#32)) = some (.unpredictable) := by decide

theorem test_conditional_half_vector_mode : faultOf (step (placed { a32 with fpscr := 0x00010000#32 } 0x1EB71900#32)) = some (.undefined 0x8000#32) := by decide

theorem test_half_in_IT_block : refusalOf (step (placed t32EQ 0xEEB71900#32)) = some (.unpredictable) := by decide

theorem test_stride : faultOf (step (placed { a32 with fpscr := 0x00300000#32 } 0xEEB70B00#32)) = some (.undefined 0x8000#32) := by decide

theorem test_simd_ignores_len : seen (placed { a32 with fpscr := 0x00010000#32 } 0xF2870F10#32) 0#5 1#5 = some (0x3F8000003F800000#64, 0xAAAAAAAABBBBBBBB#64, 0x8004#32) := by decide

theorem test_should_be_zero : refusalOf (step (placed t32 0xEEB70AA0#32)) = some (.shouldBeZero) := by decide

theorem test_cond_1111 : refusalOf (step (placed a32 0xFEB70A00#32)) = some (.notThisInstruction .condNever) := by decide

theorem test_vorr : refusalOf (step (placed a32 0xF2800110#32)) = some (.notThisInstruction .seeVorrImmediate) := by decide

theorem test_vmvn : refusalOf (step (placed a32 0xF2800030#32)) = some (.notThisInstruction .seeRelatedEncodings) := by decide

theorem test_T1_pair_in_A32 : refusalOf (step (placed a32 0xEF800010#32)) = some (.notThisInstruction .noPattern) := by decide

theorem test_A1_word_in_T32 : refusalOf (step (placed t32 0xF2800010#32)) = some (.notThisInstruction .noPattern) := by decide

theorem test_misaligned_A32 : refusalOf (step (placed { a32 with pc := 0x8002#32 } 0xF2800010#32)) = some (.misalignedPC) := by decide

theorem test_misaligned_T32 : refusalOf (step (placed { t32 with pc := 0x8001#32 } 0xEF800010#32)) = some (.misalignedPC) := by decide

theorem test_pc_wrap : refusalOf (step (placed { a32 with pc := 0xFFFFFFFC#32 } 0xF2800010#32)) = some (.pcWrap) := by decide

theorem test_last_pc : seen (placed { a32 with pc := 0xFFFFFFF8#32 } 0xF2800010#32) 0#5 1#5 = some (0#64, 0xAAAAAAAABBBBBBBB#64, 0xFFFFFFFC#32) := by decide

theorem test_bad_ITSTATE_T32 : refusalOf (step (placed { t32 with cpsr := 0x000011F3#32 } 0xEF800010#32)) = some (.badITSTATE) := by decide

theorem test_bad_ITSTATE_A32 : refusalOf (step (placed { a32 with cpsr := 0x000009D3#32 } 0xF2800010#32)) = some (.badITSTATE) := by decide

theorem test_hypTrap_simd : faultOf (step (placed { a32 with enableParam := .constant .hypTrap .enabled } 0xF2800010#32)) = some (.hypTrap 0x8000#32) := by decide

theorem test_decode_before_enable_check : faultOf (step (placed { a32 with enableParam := .constant .hypTrap .hypTrap } 0xF2801050#32)) = some (.undefined 0x8000#32) := by decide

theorem test_failed_undefined_draw_false : seen (placed { a32 with draws := [false] } 0x0EB70800#32) 0#5 1#5 =
    some (0xAAAAAAAABBBBBBBB#64, 0xAAAAAAAABBBBBBBB#64, 0x8004#32) := by decide

theorem test_failed_undefined_draw_true : faultOf (step (placed { a32 with draws := [true] } 0x0EB70800#32)) = some (.undefined 0x8000#32) := by decide

theorem test_failed_enable_draw_true : faultOf (step (placed { a32 with draws := [true], enableParam := .constant .undefined .undefined } 0x0EB70A00#32)) = some (.undefined 0x8000#32) := by decide

theorem test_failed_enabled_draw_true : seen (placed { a32 with draws := [true] } 0x0EB70A00#32) 0#5 1#5 =
    some (0xAAAAAAAABBBBBBBB#64, 0xAAAAAAAABBBBBBBB#64, 0x8004#32) := by decide

theorem test_ITSTATE_advances : (nextOf (step (placed { t32EQ with draws := [false] } 0xEF801050#32))).map (fun t => (t.itState, t.pc)) =
    some (0x00#8, 0x8004#32) := by decide

/-- Program 3 of 95_test_vectors.md, first step with Z = 0: EQ fails, the next condition is NE. -/
theorem test_ITE_block_condition : (nextOf (step (placed (start 0x00000DF3#32) 0xEF812011#32))).map (fun t => (t.itState, t.itCondition, t.readD 2#5)) =
    some (0x18#8, some .ne, 0xAAAAAAAABBBBBBBB#64) := by decide

theorem test_placed_word_runs : (nextOf (step (State.reset.withFetchWord 32 0xF382121B))).map (fun t => t.readD 1#5) = some 0x0000AB000000AB00#64 := by decide

/-- 2.5: EQ, NE, HI, LT, GT against Z, N and C alone. -/
theorem test_condition_table : [0b0000#4, 0b0001#4, 0b1000#4, 0b1011#4, 0b1100#4].map
    (fun b => [(false, true, false, false), (true, false, false, false), (false, false, true, false)].map
      fun f => condHolds (Cond.ofBits b) f.1 f.2.1 f.2.2.1 f.2.2.2) =
    [[true, false, false], [false, true, true], [false, false, true], [false, true, false], [false, false, true]] := by decide

/-- 2.3, N = 16. -/
theorem test_half_constants : vfpExpandImm16 0x48#8 = 0x3200#16 ∧ vfpExpandImm16 0xC0#8 = 0xB000#16 := by decide

/-- R173 by hand; three settings have fields that must be alike different (U20), CPACR's, NSACR's, HCPTR's. -/
theorem test_architected_check : architectedEnableCheck true true 0x00F00000#32 0x00000C00#32 0#32 0x40000000#32 .nonSecure Mode.user.bits true = some .enabled ∧
    architectedEnableCheck true true 0x00F00000#32 0x00000000#32 0#32 0x40000000#32 .nonSecure Mode.user.bits true = some .undefined ∧
    architectedEnableCheck true true 0x00F00000#32 0x00000C00#32 0x8000#32 0x40000000#32 .nonSecure Mode.user.bits true = some .hypTrap ∧
    architectedEnableCheck true true 0x00100000#32 0#32 0#32 0x40000000#32 .secure Mode.user.bits false = none ∧
    architectedEnableCheck true false 0x00F00000#32 0x00000400#32 0#32 0x40000000#32 .secure Mode.user.bits false = none ∧
    architectedEnableCheck false true 0x00F00000#32 0x00000400#32 0x0800#32 0x40000000#32 .secure Mode.user.bits false = none ∧
    architectedEnableCheck false false 0x00F00000#32 0x00000400#32 0x0800#32 0x40000000#32 .secure Mode.user.bits false =
      some .enabled := by
  decide

/-- 2.1. -/
theorem test_assembly : (asmForm (.vmovI32A1D 1#2 1#5 0xAB#8)).map (fun f => f.text .al) = some "VMOV.I32 D1, #0xAB00" ∧
    (asmForm (.vmovF64A2 .al 16#5 0x84#8 .clear)).map (fun f => f.text .al) = some "VMOV.F64 D16, #-2.5"  := by
  decide

/-! A state and operands that meet the hypotheses of each statement, clause by clause. -/

theorem test_hyp_DecodeOfEncode : (Instr.vmovF32A2 .le 31#5 0xFF#8 .clear).wellFormed = true ∧ (Instr.vmovI32T1Q 3#2 15#4 0#8).wellFormed = true := by decide

theorem test_hyp_EncodeOfDecode : (decodeA32 0xDEFFFA0F#32 = .ok (.vmovF32A2 .le 31#5 0xFF#8 .clear) ∧ (Instr.vmovF32A2 .le 31#5 0xFF#8 .clear).wellFormed = true) ∧
    (decodeT32 0xEF80E650#32 = .ok (.vmovI32T1Q 3#2 7#4 0#8) ∧ (Instr.vmovI32T1Q 3#2 7#4 0#8).wellFormed = true) := by
  decide

theorem test_hyp_EveryEncodingIsFourBytes : decode .a32 [0x1B#8, 0x12#8, 0x82#8, 0xF3#8, 0x00#8] = .ok (.vmovI32A1D 1#2 1#5 0xAB#8, [0x00#8]) ∧
    decode .t32 [0x82#8, 0xFF#8, 0x1B#8, 0x12#8] = .ok (.vmovI32T1D 1#2 1#5 0xAB#8, []) := by
  decide

theorem test_hyp_StepRuns_A32 : (placed a32 0xF382121B#32).preCheck = none ∧ (placed a32 0xF382121B#32).fetch = .ok [0x1B#8, 0x12#8, 0x82#8, 0xF3#8] ∧
    decode (placed a32 0xF382121B#32).iset [0x1B#8, 0x12#8, 0x82#8, 0xF3#8] = .ok (.vmovI32A1D 1#2 1#5 0xAB#8, []) := by
  decide

/-- The bytes of the second clause, by address, with w[7:0] at the lowest (R53). -/
theorem test_hyp_StepRuns_bytes_A32 : (placed a32 0xF382121B#32).preCheck = none ∧ (placed a32 0xF382121B#32).iset = .a32 ∧
    (placed a32 0xF382121B#32).mem.read (placed a32 0xF382121B#32).pc.toNat = some 0x1B#8 ∧ (placed a32 0xF382121B#32).mem.read ((placed a32 0xF382121B#32).pc.toNat + 1) = some 0x12#8 ∧
    (placed a32 0xF382121B#32).mem.read ((placed a32 0xF382121B#32).pc.toNat + 2) = some 0x82#8 ∧ (placed a32 0xF382121B#32).mem.read ((placed a32 0xF382121B#32).pc.toNat + 3) = some 0xF3#8 ∧
    decodeA32 (0xF3#8 ++ 0x82#8 ++ 0x12#8 ++ 0x1B#8) = .ok (.vmovI32A1D 1#2 1#5 0xAB#8) := by
  decide

theorem test_hyp_StepRuns_T32 : (placed t32EQ 0xFF82121B#32).preCheck = none ∧ (placed t32EQ 0xFF82121B#32).fetch = .ok [0x82#8, 0xFF#8, 0x1B#8, 0x12#8] ∧
    decode (placed t32EQ 0xFF82121B#32).iset [0x82#8, 0xFF#8, 0x1B#8, 0x12#8] = .ok (.vmovI32T1D 1#2 1#5 0xAB#8, []) := by
  decide

/-- The bytes of the second clause, by address, with hw1[7:0] at the lowest (R53). -/
theorem test_hyp_StepRuns_bytes_T32 : (placed t32EQ 0xFF82121B#32).preCheck = none ∧ (placed t32EQ 0xFF82121B#32).iset = .t32 ∧
    (placed t32EQ 0xFF82121B#32).mem.read (placed t32EQ 0xFF82121B#32).pc.toNat = some 0x82#8 ∧ (placed t32EQ 0xFF82121B#32).mem.read ((placed t32EQ 0xFF82121B#32).pc.toNat + 1) = some 0xFF#8 ∧
    (placed t32EQ 0xFF82121B#32).mem.read ((placed t32EQ 0xFF82121B#32).pc.toNat + 2) = some 0x1B#8 ∧ (placed t32EQ 0xFF82121B#32).mem.read ((placed t32EQ 0xFF82121B#32).pc.toNat + 3) = some 0x12#8 ∧
    isLongT32 (0xFF#8 ++ 0x82#8) = true ∧
    decodeT32 ((0xFF#8 ++ 0x82#8) ++ (0x12#8 ++ 0x1B#8)) = .ok (.vmovI32T1D 1#2 1#5 0xAB#8) := by
  decide

theorem test_hyp_StepRuns_notThis : (decodeA32 (0xE3#8 ++ 0x82#8 ++ 0x12#8 ++ 0x1B#8) = .error .noPattern ∧
      (placed a32 0xE382121B#32).mem.read ((placed a32 0xE382121B#32).pc.toNat + 3) = some 0xE3#8) ∧
    isLongT32 (0xFF#8 ++ 0x82#8) = true ∧ decodeT32 ((0xFF#8 ++ 0x82#8) ++ (0x13#8 ++ 0x1B#8)) = .error .seeVorrImmediate ∧
      (placed t32 0xFF82131B#32).mem.read ((placed t32 0xFF82131B#32).pc.toNat + 3) = some 0x13#8 := by
  decide

theorem test_hyp_PlacedWordRunsNext : (decodeTableWord 32 0xF382121B = some (.vmovI32A1D 1#2 1#5 0xAB#8) ∧ (State.reset.withFetchWord 32 0xF382121B).preCheck = none) ∧
    (decodeTableWord 32 0xFF82121B = some (.vmovI32T1D 1#2 1#5 0xAB#8) ∧ (State.reset.withFetchWord 32 0xFF82121B).preCheck = none) := by
  decide

theorem test_hyp_StepZero_misaligned : ({ a32 with pc := 0xFFFFFFFF#32 } : State).iset = .a32 ∧ (0xFFFFFFFF#32).toNat % 4 ≠ 0 ∧
    ({ t32 with pc := 0x8001#32 } : State).iset = .t32 ∧ (0x8001#32).toNat % 2 ≠ 0 := by decide

theorem test_hyp_StepZero_wraps : ({ a32 with pc := 0xFFFFFFFC#32 } : State).misalignedPC = false ∧ ({ a32 with pc := 0xFFFFFFFC#32 } : State).pcWraps = true ∧
    ({ t32 with pc := 0xFFFFFFFE#32 } : State).misalignedPC = false ∧ ({ t32 with pc := 0xFFFFFFFE#32 } : State).pcWraps = true := by
  decide

theorem test_hyp_StepZero_badIT : (start 0x000011F3#32).misalignedPC = false ∧ (start 0x000011F3#32).pcWraps = false ∧ (start 0x000011F3#32).itState = 0x10#8 ∧
    (start 0x000009D3#32).iset = .a32 ∧ (start 0x000009D3#32).itState = 0x08#8 := by
  decide

theorem test_hyp_StepZero_none : ({ a32 with pc := 0xFFFFFFF8#32 } : State).preCheck = none ∧ ({ t32EQ with pc := 0xFFFFFFFA#32 } : State).preCheck = none := by
  decide

theorem test_hyp_StepRefuses : ((placed a32 0xF2800110#32).preCheck = none ∧ (placed a32 0xF2800110#32).fetch = .ok [0x10#8, 0x01#8, 0x80#8, 0xF2#8] ∧
      decode (placed a32 0xF2800110#32).iset [0x10#8, 0x01#8, 0x80#8, 0xF2#8] = .error .seeVorrImmediate) ∧
    (listing t32 [0xFF#8, 0xE7#8]).preCheck = none ∧ (listing t32 [0xFF#8, 0xE7#8]).iset = .t32 ∧
      (listing t32 [0xFF#8, 0xE7#8]).mem.read 0x8000 = some 0xFF#8 ∧ (listing t32 [0xFF#8, 0xE7#8]).mem.read 0x8001 = some 0xE7#8 ∧
      isLongT32 (0xE7#8 ++ 0xFF#8) = false := by
  decide

/-- The first and the last byte missing. -/
theorem test_hyp_StepRefuses_first_missing_A32 : a32.iset = .a32 ∧ (listing a32 []).preCheck = none ∧ (listing a32 []).mem.read 0x8000 = none ∧
    (listing a32 [0x1B#8, 0x12#8, 0x82#8]).preCheck = none ∧ (∀ j, j < 3 → (listing a32 [0x1B#8, 0x12#8, 0x82#8]).mem.read (0x8000 + j) ≠ none) ∧
    (listing a32 [0x1B#8, 0x12#8, 0x82#8]).mem.read (0x8000 + 3) = none := by
  decide

/-- The second, the third and the fourth byte missing. -/
theorem test_hyp_StepRefuses_first_missing_T32 : t32.iset = .t32 ∧ isLongT32 (0xFF#8 ++ 0x82#8) = true ∧
    ((listing t32 [0x82#8]).preCheck = none ∧ (listing t32 [0x82#8]).mem.read 0x8000 = some 0x82#8 ∧
      (listing t32 [0x82#8]).mem.read (0x8000 + 1) = none) ∧
    ((listing t32 [0x82#8, 0xFF#8]).preCheck = none ∧ (listing t32 [0x82#8, 0xFF#8]).mem.read 0x8000 = some 0x82#8 ∧
      (listing t32 [0x82#8, 0xFF#8]).mem.read (0x8000 + 1) = some 0xFF#8 ∧ (listing t32 [0x82#8, 0xFF#8]).mem.read (0x8000 + 2) = none) ∧
    (listing t32 [0x82#8, 0xFF#8, 0x1B#8]).preCheck = none ∧
      (∀ j, j < 3 → (listing t32 [0x82#8, 0xFF#8, 0x1B#8]).mem.read (0x8000 + j) ≠ none) ∧
      (listing t32 [0x82#8, 0xFF#8, 0x1B#8]).mem.read (0x8000 + 3) = none := by
  decide

/-- For EveryStepKeepsTheStateWellFormed and EveryStepFrames, and a run of one step. -/
theorem test_hyp_EveryStep_A32 : (placed a32 0xF382121B#32).WellFormed ∧ ∃ t, step (placed a32 0xF382121B#32) = .next t := ⟨⟨by decide, by decide, by decide, by decide⟩, next_of (by decide)⟩

theorem test_hyp_EveryStep_T32 : (placed t32EQZ 0xFF82121B#32).WellFormed ∧ ∃ t, step (placed t32EQZ 0xFF82121B#32) = .next t := ⟨⟨by decide, by decide, by decide, by decide⟩, next_of (by decide)⟩

theorem test_hyp_NoInstructionWritesAnotherRegister : (∃ t, exec (.vmovI32A1Q 0#2 15#4 0#8) a32 = .next t) ∧ mayWrite 29#5 (.vmovI32A1Q 0#2 15#4 0#8) = false := ⟨next_of (by decide), by decide⟩

theorem test_hyp_EveryFaultRecordsThePc : step (placed a32 0xF2801050#32) = .fault (.undefined 0x8000#32) ∧
    step (placed { a32 with enableParam := .constant .hypTrap .hypTrap } 0xF2800010#32) = .fault (.hypTrap 0x8000#32) := ⟨fault_of (by decide), fault_of (by decide)⟩

theorem test_hyp_RefusalsOfAnInstruction : exec (.vmovF16A2 .eq 0#5 0#8 .clear) a32 = .refused .unpredictable ∧
    exec (.vmovF64T2 0#5 0#8 ⟨true, false⟩) t32 = .refused .shouldBeZero ∧
    exec (.vmovI8A4D 0#5 0#8) { a32 with pc := 2#32 } = .refused .misalignedPC ∧
    exec (.vmovI8A4D 0#5 0#8) { a32 with pc := 0xFFFFFFFC#32 } = .refused .pcWrap ∧
    exec (.vmovI8T4D 0#5 0#8) (start 0x000011F3#32) = .refused .badITSTATE := ⟨refusal_of (by decide), refusal_of (by decide), refusal_of (by decide), refusal_of (by decide), refusal_of (by decide)⟩

theorem test_hyp_Runs : ∃ t, Reaches 1 (placed a32 0xF382121B#32) t := by
  obtain ⟨t, h⟩ := next_of (o := step (placed a32 0xF382121B#32)) (by decide)
  have hs : core.step (placed a32 0xF382121B#32) = .next t := h
  exact ⟨t, by simp only [Reaches, Host.Core.run, hs]⟩

/-- For the results of A1, A3, A4 and A5. -/
theorem test_hyp_A1_A3_A4_A5 : a32.Ready true := ⟨by decide, by decide⟩

/-- For the results of T1, T3, T4 and T5, outside and inside an IT block. -/
theorem test_hyp_T1_T3_T4_T5 : (t32.Ready true ∧ t32.ITPassed) ∧ t32EQZ.Ready true ∧ t32EQZ.ITPassed := ⟨⟨⟨by decide, by decide⟩, .al, by decide, by decide⟩, ⟨by decide, by decide⟩, .eq, by decide, by decide⟩

theorem test_hyp_OneSRegister : (a32.Ready false ∧ a32.ScalarMode ∧ a32.hasFP16 = true) ∧ t32.Ready false ∧ t32.ScalarMode ∧ t32.hasFP16 = true ∧ t32.itState = 0#8 := ⟨⟨⟨by decide, by decide⟩, ⟨by decide, by decide⟩, by decide⟩, ⟨by decide, by decide⟩, ⟨by decide, by decide⟩, by decide, by decide⟩

theorem test_hyp_OneSRegister_single_and_Double : (a32.Ready false ∧ a32.ScalarMode ∧ a32.conditionPassed .ne = true) ∧ t32EQZ.Ready false ∧ t32EQZ.ScalarMode ∧ t32EQZ.ITPassed := ⟨⟨⟨by decide, by decide⟩, ⟨by decide, by decide⟩, by decide⟩, ⟨by decide, by decide⟩, ⟨by decide, by decide⟩, .eq, by decide, by decide⟩

theorem test_hyp_SView : (30#5 : SReg) ≠ 31#5 ∧ 16 ≤ (16#5 : DReg).toNat := by decide

/-- Also for OddQuadwordIsUndefinedInA32. -/
theorem test_hyp_UndefinedRows : a32.preCheck = none ∧ a32.conditionPassed .pl = true ∧ t32EQZ.preCheck = none ∧ t32EQZ.ITPassed := ⟨by decide, by decide, by decide, .eq, by decide, by decide⟩

theorem test_hyp_VectorMode : (({ a32 with fpscr := 0x00010000#32 } : State).preCheck = none ∧ ({ a32 with fpscr := 0x00010000#32 } : State).fpscrLen ≠ 0#3 ∧
      rowKind (.vmovF16A2 .ne 0#5 0#8 .clear) = .half ∧ sbzOf (.vmovF16A2 .ne 0#5 0#8 .clear) = .clear ∧
      currentCond (.vmovF16A2 .ne 0#5 0#8 .clear) a32 = some .ne ∧ a32.conditionPassed .ne = true) ∧
    ({ t32EQZ with fpscr := 0x00300000#32 } : State).preCheck = none ∧ ({ t32EQZ with fpscr := 0x00300000#32 } : State).fpscrStride ≠ 0#2 ∧
      rowKind (.vmovF64T2 0#5 0#8 .clear) = .scalar ∧ sbzOf (.vmovF64T2 0#5 0#8 .clear) = .clear ∧
      currentCond (.vmovF64T2 0#5 0#8 .clear) t32EQZ = some .eq ∧ t32EQZ.conditionPassed .eq = true := by
  decide

theorem test_hyp_HalfWithoutTheFeature : ({ t32EQZ with hasFP16 := false } : State).preCheck = none ∧ rowKind (.vmovF16T2 0#5 0#8 .clear) = .half ∧
    sbzOf (.vmovF16T2 0#5 0#8 .clear) = .clear ∧ currentCond (.vmovF16T2 0#5 0#8 .clear) { t32EQZ with hasFP16 := false } = some .eq ∧
    ({ t32EQZ with hasFP16 := false } : State).conditionPassed .eq = true := by
  decide

theorem test_hyp_ConditionalHalf : (a32.preCheck = none ∧ a32.ScalarMode ∧ a32.hasFP16 = true ∧ Cond.nv ≠ Cond.al) ∧ t32EQ.preCheck = none ∧ t32EQ.ScalarMode ∧ t32EQ.hasFP16 = true ∧ t32EQ.inITBlock = true := ⟨⟨by decide, ⟨by decide, by decide⟩, by decide, by decide⟩, by decide, ⟨by decide, by decide⟩, by decide, by decide⟩

theorem test_hyp_ShouldBeZero : a32.preCheck = none ∧ (sbzOf (.undefinedA2 .eq 0#5 0#8 ⟨true, false⟩)).bit7 = true ∧ (sbzOf (.vmovF32T2 0#5 0#8 ⟨false, true⟩)).bit5 = true := by decide

theorem test_hyp_EnableCheck_undefined : (({ a32 with enableParam := .constant .undefined .undefined } : State).preCheck = none ∧ currentCond (.vmovI8A4D 0#5 0#8) a32 = some .al ∧
      a32.conditionPassed .al = true ∧ rowKind (.vmovI8A4D 0#5 0#8) = .simd ∧ ({ a32 with enableParam := .constant .undefined .undefined } : State).enableCheck true = some .undefined) ∧
    (({ a32 with enableParam := .constant .undefined .undefined } : State).ScalarMode ∧ ({ a32 with enableParam := .constant .undefined .undefined } : State).enableCheck false = some .undefined) ∧
    (rowKind (.vmovF64A2 .ne 0#5 0#8 .clear) = .scalar ∧ sbzOf (.vmovF64A2 .ne 0#5 0#8 .clear) = .clear ∧
      currentCond (.vmovF64A2 .ne 0#5 0#8 .clear) a32 = some .ne ∧ a32.conditionPassed .ne = true) ∧
    (rowKind (.vmovF16A2 .al 0#5 0#8 .clear) = .half ∧ sbzOf (.vmovF16A2 .al 0#5 0#8 .clear) = .clear ∧
      currentCond (.vmovF16A2 .al 0#5 0#8 .clear) a32 = some .al ∧ ({ a32 with enableParam := .constant .undefined .undefined } : State).hasFP16 = true ∧ ({ a32 with enableParam := .constant .undefined .undefined } : State).inITBlock = false) := ⟨by decide, ⟨⟨by decide, by decide⟩, by decide⟩, by decide, by decide⟩

theorem test_hyp_EnableCheck_hypTrap : (({ a32 with enableParam := .constant .hypTrap .hypTrap } : State).preCheck = none ∧ currentCond (.vmovI8A4D 0#5 0#8) a32 = some .al ∧
      a32.conditionPassed .al = true ∧ rowKind (.vmovI8A4D 0#5 0#8) = .simd ∧ ({ a32 with enableParam := .constant .hypTrap .hypTrap } : State).enableCheck true = some .hypTrap) ∧
    (({ a32 with enableParam := .constant .hypTrap .hypTrap } : State).ScalarMode ∧ ({ a32 with enableParam := .constant .hypTrap .hypTrap } : State).enableCheck false = some .hypTrap) ∧
    (rowKind (.vmovF64A2 .ne 0#5 0#8 .clear) = .scalar ∧ sbzOf (.vmovF64A2 .ne 0#5 0#8 .clear) = .clear ∧
      currentCond (.vmovF64A2 .ne 0#5 0#8 .clear) a32 = some .ne ∧ a32.conditionPassed .ne = true) ∧
    (rowKind (.vmovF16A2 .al 0#5 0#8 .clear) = .half ∧ sbzOf (.vmovF16A2 .al 0#5 0#8 .clear) = .clear ∧
      currentCond (.vmovF16A2 .al 0#5 0#8 .clear) a32 = some .al ∧ ({ a32 with enableParam := .constant .hypTrap .hypTrap } : State).hasFP16 = true ∧ ({ a32 with enableParam := .constant .hypTrap .hypTrap } : State).inITBlock = false) := ⟨by decide, ⟨⟨by decide, by decide⟩, by decide⟩, by decide, by decide⟩

theorem test_hyp_EnableCheck_enabled : (({ a32 with enableParam := .constant .enabled .enabled } : State).preCheck = none ∧ currentCond (.vmovI8A4D 0#5 0#8) a32 = some .al ∧
      a32.conditionPassed .al = true ∧ rowKind (.vmovI8A4D 0#5 0#8) = .simd ∧ ({ a32 with enableParam := .constant .enabled .enabled } : State).enableCheck true = some .enabled) ∧
    (({ a32 with enableParam := .constant .enabled .enabled } : State).ScalarMode ∧ ({ a32 with enableParam := .constant .enabled .enabled } : State).enableCheck false = some .enabled) ∧
    (rowKind (.vmovF64A2 .ne 0#5 0#8 .clear) = .scalar ∧ sbzOf (.vmovF64A2 .ne 0#5 0#8 .clear) = .clear ∧
      currentCond (.vmovF64A2 .ne 0#5 0#8 .clear) a32 = some .ne ∧ a32.conditionPassed .ne = true) ∧
    (rowKind (.vmovF16A2 .al 0#5 0#8 .clear) = .half ∧ sbzOf (.vmovF16A2 .al 0#5 0#8 .clear) = .clear ∧
      currentCond (.vmovF16A2 .al 0#5 0#8 .clear) a32 = some .al ∧ ({ a32 with enableParam := .constant .enabled .enabled } : State).hasFP16 = true ∧ ({ a32 with enableParam := .constant .enabled .enabled } : State).inITBlock = false) := ⟨by decide, ⟨⟨by decide, by decide⟩, by decide⟩, by decide, by decide⟩

theorem test_hyp_FailedConditionWritesNothing : (({ a32 with draws := [false] } : State).preCheck = none ∧ rowKind (.undefinedA2 .eq 0#5 0#8 .clear) ≠ .half ∧
      sbzOf (.undefinedA2 .eq 0#5 0#8 .clear) = .clear ∧ currentCond (.undefinedA2 .eq 0#5 0#8 .clear) a32 = some .eq ∧
      a32.conditionPassed .eq = false ∧ ({ a32 with draws := [false] } : State).undefWhenCondFails = false) ∧
    (({ t32EQ with draws := [false], hasFP16 := false } : State).preCheck = none ∧ sbzOf (.vmovF16T2 0#5 0#8 .clear) = .clear ∧
      currentCond (.vmovF16T2 0#5 0#8 .clear) t32EQ = some .eq ∧ t32EQ.conditionPassed .eq = false) ∧
    UndefinedByDecode (.vmovF16T2 0#5 0#8 .clear) { t32EQ with draws := [false], hasFP16 := false } := ⟨by decide, by decide, .inr (.inl ⟨by decide, by decide⟩)⟩

theorem test_hyp_FailedConditionMayStillFault : (({ t32EQ with draws := [true] } : State).preCheck = none ∧ sbzOf (.undefinedT1 0#2 0#4 0#8) = .clear ∧
      currentCond (.undefinedT1 0#2 0#4 0#8) t32EQ = some .eq ∧ t32EQ.conditionPassed .eq = false ∧
      ({ t32EQ with draws := [true] } : State).undefWhenCondFails = true) ∧
    UndefinedByDecode (.undefinedT1 0#2 0#4 0#8) { t32EQ with draws := [true] } ∧
    (rowKind (.vmovI8T4D 0#5 0#8) = .simd ∧ sbzOf (.vmovI8T4D 0#5 0#8) = .clear ∧ currentCond (.vmovI8T4D 0#5 0#8) t32EQ = some .eq ∧
      ({ t32EQ with draws := [true], enableParam := .constant .undefined .hypTrap } : State).enableCheck true = some .undefined ∧
      ({ t32EQ with draws := [true] } : State).enableCheck true = some .enabled) ∧
    (rowKind (.vmovF32T2 0#5 0#8 .clear) = .scalar ∧ t32EQ.ScalarMode ∧ sbzOf (.vmovF32T2 0#5 0#8 .clear) = .clear ∧
      currentCond (.vmovF32T2 0#5 0#8 .clear) t32EQ = some .eq ∧
      ({ t32EQ with draws := [true], enableParam := .constant .undefined .hypTrap } : State).enableCheck false = some .hypTrap) := ⟨by decide, .inl (by decide), by decide, by decide, ⟨by decide, by decide⟩, by decide⟩

theorem test_hyp_NeighbouringConditions : (0b110#3 : BitVec 3) ≠ 0b111#3 := by decide

theorem test_hyp_ConditionTable_T32 : (Instr.vmovI8T4D 0#5 0#8).iset = .t32 ∧ (0x09F3#32 : Word).extractLsb' 10 6 ++ (0x09F3#32 : Word).extractLsb' 25 2 = 0x08#8 ∧
    t32EQ.cpsr = 0x09F3#32 ∧ t32.cpsr = 0x01F3#32 ∧
    (0x01F3#32 : Word).extractLsb' 10 6 ++ (0x01F3#32 : Word).extractLsb' 25 2 = 0#8 := by decide

/-- The two cases of the advance; the second state has ITSTATE 0x0D. -/
theorem test_hyp_EveryStepFrames_advance : (∃ t, step (placed t32EQZ 0xFF82121B#32) = .next t) ∧ (placed t32EQZ 0xFF82121B#32).cpsr.getLsbD 5 = true ∧
    (placed t32EQZ 0xFF82121B#32).itState.extractLsb' 0 3 = 0#3 ∧
    (∃ t, step (placed (start 0x42000DF3#32) 0xFF82121B#32) = .next t) ∧
      (placed (start 0x42000DF3#32) 0xFF82121B#32).cpsr.getLsbD 5 = true ∧
      (placed (start 0x42000DF3#32) 0xFF82121B#32).itState.extractLsb' 0 3 = 5#3 := ⟨next_of (by decide), by decide, by decide, next_of (by decide), by decide, by decide⟩

theorem test_hyp_ITBlocks : (0x08#8 : BitVec 8).extractLsb' 0 3 = 0#3 ∧ (0x0F#8 : BitVec 8).extractLsb' 0 3 ≠ 0#3 ∧ itAdvance 0x0C#8 = 0x18#8 ∧
    itAdvance 0x0F#8 = 0x1E#8 ∧ itAdvance 0x0F#8 ≠ 0#8 ∧ itAdvance 0x18#8 = 0#8 := by decide

theorem test_hyp_NoInstructionReadsARegister : (wholeConstant (.vmovI64T5Q 15#4 0xFF#8)).isSome = true ∧ (∃ t, exec (.vmovI64T5Q 15#4 0xFF#8) t32EQZ = .next t) ∧
    (∃ u, exec (.vmovI64T5Q 15#4 0xFF#8) { t32EQZ with dregs := Vector.replicate Config.numDRegs 1#64 } = .next u) ∧
    mayWrite 31#5 (.vmovI64T5Q 15#4 0xFF#8) = true ∧ currentCond (.vmovI64T5Q 15#4 0xFF#8) t32EQZ = some .eq ∧
    t32EQZ.conditionPassed .eq = true := ⟨by decide, next_of (by decide), next_of (by decide), by decide, by decide, by decide⟩

theorem test_hyp_NoInstructionReadsARegister_double : (wholeConstant (.vmovF64A2 .ne 31#5 0#8 .clear)).isSome = true ∧ (∃ t, exec (.vmovF64A2 .ne 31#5 0#8 .clear) a32 = .next t) ∧
    (∃ u, exec (.vmovF64A2 .ne 31#5 0#8 .clear) { a32 with dregs := Vector.replicate Config.numDRegs 1#64 } = .next u) ∧
    mayWrite 31#5 (.vmovF64A2 .ne 31#5 0#8 .clear) = true ∧ currentCond (.vmovF64A2 .ne 31#5 0#8 .clear) a32 = some .ne ∧
    a32.conditionPassed .ne = true := ⟨by decide, next_of (by decide), next_of (by decide), by decide, by decide, by decide⟩

/-- For AdvancedSimdDoesNotReadFpscr and ScalarRowsReadOnlyLenAndStride. -/
theorem test_hyp_FpscrIsNotRead : rowKind (.vmovF32A4Q 0#4 0#8) = .simd ∧ (0xF7C8FFFF#32).extractLsb' 16 3 = a32.fpscrLen ∧
    (0xF7C8FFFF#32).extractLsb' 20 2 = a32.fpscrStride := by decide

theorem test_hyp_ArchitectedEnableCheck : (0xBFFFFFFF#32).getLsbD 30 = false ∧
    architectedEnableCheck false true 0x00F00000#32 0#32 0x0C00#32 0x40000000#32 .nonSecure Mode.supervisor.bits false = some .hypTrap ∧
    architectedEnableCheck false false 0x00F00000#32 0#32 0#32 0x40000000#32 .secure Mode.supervisor.bits true = some .enabled := by
  decide

/-- By hand from R179, EE alone and TE alone set; the clauses on bits of CPSR at the ends of their ranges. -/
theorem test_hyp_ArchitectedEntries : undefinedEntryCpsr 0xF9FF01D3#32 0x02000000#32 = 0xF9FF03DB#32 ∧ undefinedEntryCpsr 0x060FFE73#32 0x40000000#32 = 0x000F00FB#32 ∧
    (16 ≤ 24 ∧ 24 < 25) ∧ 27 ≤ 31 := by decide

theorem test_hyp_DestinationNumbers : (decodeA32 0xF3C0EA50#32 = .ok (.vmovI16A3Q 1#1 15#4 0x80#8) ∧ (asmForm (.vmovI16A3Q 1#1 15#4 0x80#8)).isSome = true ∧
      (0xF3C0EA50#32).getLsbD 6 = true) ∧
    (decodeT32 0xFFC01E30#32 = .ok (.vmovI64T5D 17#5 0x80#8) ∧ (0xFFC01E30#32).getLsbD 6 = false) ∧
    (decodeA32 0x1EF0FB00#32 = .ok (.vmovF64A2 .ne 31#5 0#8 .clear) ∧ (asmForm (.vmovF64A2 .ne 31#5 0#8 .clear)).isSome = true ∧
      rowKind (.vmovF64A2 .ne 31#5 0#8 .clear) ≠ .simd ∧ (0x1EF0FB00#32).extractLsb' 8 2 = 0b11#2) ∧
    (decodeT32 0xEEFFFA00#32 = .ok (.vmovF32T2 31#5 0xF0#8 .clear) ∧ (0xEEFFFA00#32).extractLsb' 8 2 ≠ 0b11#2) := by
  decide

theorem test_hyp_UndefinedEncodings_words : (decodeA32 0xF3C7FE7F#32 = .ok (.undefinedA5 0b1111#4 0xFF#8) ∧ (0xF3C7FE7F#32).getLsbD 26 = false) ∧
    (decodeA32 0xEEB70800#32 = .ok (.undefinedA2 .al 0#5 0x70#8 .clear) ∧ (0xEEB70800#32).getLsbD 26 = true) ∧
    (decodeT32 0xEF801050#32 = .ok (.undefinedT1 0#2 0#4 0#8) ∧ (0xEF801050#32).getLsbD 24 = true) ∧
    (decodeT32 0xEEB70A00#32 = .ok (.vmovF32T2 0#5 0x70#8 .clear) ∧ (0xEEB70A00#32).getLsbD 24 = false) := by
  decide

theorem test_hyp_UndefinedEncodings_states : (a32.preCheck = none ∧ sbzOf (.vmovF16A2 .al 0#5 0#8 .clear) = .clear ∧
      currentCond (.vmovF16A2 .al 0#5 0#8 .clear) a32 = some .al ∧ a32.conditionPassed .al = true ∧
      rowKind (.vmovF16A2 .al 0#5 0#8 .clear) = .half ∧ a32.hasFP16 = true ∧ a32.ScalarMode ∧ a32.enableCheck false = some .enabled) ∧
    (currentCond (.undefinedT4 3#2 15#4 0#8) t32EQZ = some .eq ∧ t32EQZ.conditionPassed .eq = true ∧ t32EQZ.preCheck = none ∧
      sbzOf (.undefinedT4 3#2 15#4 0#8) = .clear) ∧ UndefinedByDecode (.undefinedT4 3#2 15#4 0#8) t32EQZ := ⟨⟨by decide, by decide, by decide, by decide, by decide, by decide, ⟨by decide, by decide⟩, by decide⟩, by decide, .inl (by decide)⟩

theorem test_hyp_WholeDRegisters : (wholeConstant (.vmovI64T5Q 15#4 0x80#8)).isSome = true ∧ t32EQZ.Ready (rowKind (.vmovI64T5Q 15#4 0x80#8) == .simd) ∧
    currentCond (.vmovI64T5Q 15#4 0x80#8) t32EQZ = some .eq ∧ t32EQZ.conditionPassed .eq = true ∧
    (wholeConstant (.vmovF64A2 .ne 31#5 0#8 .clear)).isSome = true ∧ a32.Ready (rowKind (.vmovF64A2 .ne 31#5 0#8 .clear) == .simd) ∧
    a32.ScalarMode ∧ currentCond (.vmovF64A2 .ne 31#5 0#8 .clear) a32 = some .ne ∧ a32.conditionPassed .ne = true := ⟨by decide, ⟨by decide, by decide⟩, by decide, by decide, by decide, ⟨by decide, by decide⟩, ⟨by decide, by decide⟩, by decide, by decide⟩

theorem test_hyp_TemplateElement : rowKind (.vmovI16A3Q 1#1 15#4 0x80#8) = .simd ∧ (asmForm (.vmovI16A3Q 1#1 15#4 0x80#8)).isSome = true ∧
    (∃ t, exec (.vmovI16A3Q 1#1 15#4 0x80#8) a32 = .next t) ∧ mayWrite 31#5 (.vmovI16A3Q 1#1 15#4 0x80#8) = true ∧
    currentCond (.vmovI16A3Q 1#1 15#4 0x80#8) a32 = some .al ∧ a32.conditionPassed .al = true := ⟨by decide, by decide, next_of (by decide), by decide, by decide, by decide⟩

end Sys2Proof.Tests
end

section
/-! PROOFS. How a step, an instruction and the shared operations can stop, and the statements of 00_scope.md on the outcome of a
step: which instruction it runs, what it faults with, and what it is refused for (R11, R13). -/

namespace Sys2Proof.Machine

/-! The faults and refusals of the common Operation (R100). -/

/-- A fault that an instruction at `s` can raise: one of the two kinds, with the `pc` of `s` (R170, R174). -/
def State.RaisesHere (s : State) (f : Fault) : Prop := f = .undefined s.pc ∨ f = .hypTrap s.pc

/-- The five refusals of R11 that an instruction can meet once it has been matched. -/
def Refusal.OfInstruction (r : Refusal) : Prop :=
  r = .unpredictable ∨ r = .shouldBeZero ∨ r = .misalignedPC ∨ r = .pcWrap ∨ r = .badITSTATE

theorem raiseFault_eq_fault (k : FaultKind) (s : State) : ∃ f, raiseFault k s = .fault f ∧ s.RaisesHere f := by
  cases k
  · exact ⟨_, rfl, .inl rfl⟩
  · exact ⟨_, rfl, .inr rfl⟩

/-- The three answers of the checks after the condition (R100 steps 4 to 7). -/
theorem State.checkAndWrite_cases (s : State) (v : Verdict) (write : Binding → State) :
    (∃ t, s.checkAndWrite v write = .next t) ∨ (∃ f, s.checkAndWrite v write = .fault f ∧ s.RaisesHere f) ∨
      s.checkAndWrite v write = .refused .unpredictable := by
  cases v with
  | unpred => exact .inr (.inr rfl)
  | undef => exact .inr (.inl (raiseFault_eq_fault .undefined s))
  | ok b =>
    simp only [State.checkAndWrite]
    split
    · exact .inr (.inr rfl)
    · exact .inr (.inl (raiseFault_eq_fault .undefined s))
    · exact .inr (.inl (raiseFault_eq_fault .hypTrap s))
    · exact .inl ⟨_, rfl⟩

/-- The Operation completes, or it stops as the checks stop: a failed condition adds no reason of its own, it only lets the draw
take one away (R106, R107). -/
theorem State.operate_next_or_checkAndWrite (s : State) (c : Cond) (v : Verdict) :
    (∃ t, s.operate c v = .next t) ∨ ∃ write, s.operate c v = s.checkAndWrite v write := by
  unfold State.operate
  split
  case isTrue => exact .inr ⟨_, rfl⟩
  case isFalse =>
    split
    case h_1 => exact .inl ⟨_, rfl⟩
    case h_2 f hf =>
      split
      · exact .inr ⟨_, hf.symm⟩
      · exact .inl ⟨_, rfl⟩
    case h_3 r hr =>
      split
      · exact .inr ⟨_, hr.symm⟩
      · exact .inl ⟨_, rfl⟩

/-- The three answers of the Operation (R100 steps 3 to 8). -/
theorem State.operate_cases (s : State) (c : Cond) (v : Verdict) :
    (∃ t, s.operate c v = .next t) ∨ (∃ f, s.operate c v = .fault f ∧ s.RaisesHere f) ∨
      s.operate c v = .refused .unpredictable := by
  obtain hnext | ⟨write, hw⟩ := s.operate_next_or_checkAndWrite c v
  · exact .inl hnext
  · rw [hw]
    exact s.checkAndWrite_cases v write

/-- Step 0 refuses for one of its three reasons (R29, R32). -/
theorem State.preCheck_some {s : State} {r : Refusal} (h : s.preCheck = some r) :
    r = .misalignedPC ∨ r = .pcWrap ∨ r = .badITSTATE := by
  unfold State.preCheck at h
  split at h
  · exact .inl (Option.some.inj h).symm
  · split at h
    · exact .inr (.inl (Option.some.inj h).symm)
    · split at h
      · exact .inr (.inr (Option.some.inj h).symm)
      · cases h

/-- An instruction is refused before its condition is looked at, or it is the Operation under its condition (R100). -/
theorem State.runVmov_refused_or_operate (s : State) (z : SbzBits) (oc : Option Cond) (v : Verdict) :
    (∃ r, s.runVmov z oc v = .refused r ∧ r.OfInstruction) ∨ ∃ c, s.runVmov z oc v = s.operate c v := by
  unfold State.runVmov
  split
  case h_1 r hr => exact .inl ⟨r, rfl, .inr (.inr (State.preCheck_some hr))⟩
  case h_2 =>
    split
    · exact .inl ⟨_, rfl, .inr (.inl rfl)⟩
    · split
      · exact .inl ⟨_, rfl, .inl rfl⟩
      · split
        · exact .inl ⟨_, rfl, .inr (.inr (.inr (.inr rfl)))⟩
        · exact .inr ⟨_, rfl⟩

/-- The three outcomes of an instruction, each with what it can carry (R11). -/
theorem exec_cases (i : Instr) (s : State) :
    (∃ t, exec i s = .next t) ∨ (∃ f, exec i s = .fault f ∧ s.RaisesHere f) ∨
      ∃ r, exec i s = .refused r ∧ r.OfInstruction := by
  rw [exec_eq_runVmov]
  obtain hr | ⟨c, hc⟩ := s.runVmov_refused_or_operate (sbzOf i) (currentCond i s) (instrVerdict i s)
  · exact .inr (.inr hr)
  · rw [hc]
    obtain hnext | hfault | hr := s.operate_cases c (instrVerdict i s)
    · exact .inl hnext
    · exact .inr (.inl hfault)
    · exact .inr (.inr ⟨_, hr, .inl rfl⟩)

theorem exec_fault {i : Instr} {s : State} {f : Fault} (h : exec i s = .fault f) : s.RaisesHere f := by
  obtain ⟨t, ht⟩ | ⟨f', hf, hhere⟩ | ⟨r, hr, -⟩ := exec_cases i s
  · cases h.symm.trans ht
  · cases h.symm.trans hf
    exact hhere
  · cases h.symm.trans hr

theorem exec_refused {i : Instr} {s : State} {r : Refusal} (h : exec i s = .refused r) : r.OfInstruction := by
  obtain ⟨t, ht⟩ | ⟨f, hf, -⟩ | ⟨r', hr, hof⟩ := exec_cases i s
  · cases h.symm.trans ht
  · cases h.symm.trans hf
  · cases h.symm.trans hr
    exact hof

/-- Step 0, the fetch and the match only refuse: a step that faults is an instruction that faults (R13). -/
theorem step_fault {s : State} {f : Fault} (h : step s = .fault f) : ∃ i, exec i s = .fault f := by
  unfold step at h
  split at h
  · cases h
  · split at h
    · cases h
    · split at h
      · cases h
      · exact ⟨_, h⟩

/-- Settles O19: only an instruction faults, and it raises its fault at the state the step began in. -/
theorem everyFaultRecordsThePc : Obligations.EveryFaultRecordsThePc := by
  intro s f h
  obtain ⟨i, hi⟩ := step_fault h
  exact exec_fault hi

/-- Settles O20, by the outcomes of the common Operation. -/
theorem refusalsOfAnInstructionAreTheFive : Obligations.RefusalsOfAnInstructionAreTheFive :=
  fun _ _ _ h => exec_refused h

/-! The match of the fetched bytes (R51 to R53, R65, R93). -/

theorem step_of_decode_ok {s : State} {bytes rest : List Byte} {i : Instr} (hp : s.preCheck = none)
    (hf : s.fetch = .ok bytes) (hd : decode s.iset bytes = .ok (i, rest)) : step s = exec i s := by
  simp [step, hp, hf, hd]

theorem step_of_decode_error {s : State} {bytes : List Byte} {why : NotThis} (hp : s.preCheck = none)
    (hf : s.fetch = .ok bytes) (hd : decode s.iset bytes = .error why) : step s = .refused (.notThisInstruction why) := by
  simp [step, hp, hf, hd]

theorem decode_a32_four (b0 b1 b2 b3 : Byte) :
    decode .a32 [b0, b1, b2, b3] = (decodeA32 (b3 ++ b2 ++ b1 ++ b0)).map fun i => (i, []) := rfl

theorem decode_t32_long {b0 b1 : Byte} (b2 b3 : Byte) (hl : isLongT32 (b1 ++ b0) = true) :
    decode .t32 [b0, b1, b2, b3] = (decodeT32 ((b1 ++ b0) ++ (b3 ++ b2))).map fun i => (i, []) :=
  if_pos hl

theorem decode_t32_short {b0 b1 : Byte} (rest : List Byte) (hl : isLongT32 (b1 ++ b0) = false) :
    decode .t32 (b0 :: b1 :: rest) = .error .shortT32 :=
  if_neg (by simp [halfOfBytes, hl])

/-- Where the whole list of bytes is matched as one word, a step runs what the word decodes to or refuses for the reason it does
not. -/
theorem step_of_decode_map {s : State} {bytes : List Byte} {d : Except NotThis Instr} (hp : s.preCheck = none)
    (hf : s.fetch = .ok bytes) (hd : decode s.iset bytes = d.map fun i => (i, [])) :
    (∀ i, d = .ok i → step s = exec i s) ∧ ∀ why, d = .error why → step s = .refused (.notThisInstruction why) := by
  constructor
  · rintro i rfl
    exact step_of_decode_ok hp hf hd
  · rintro why rfl
    exact step_of_decode_error hp hf hd

/-- In T32 state, after a halfword that begins a 32-bit instruction, all four bytes are fetched (R52, R93). -/
theorem State.fetch_t32_long {s : State} {b0 b1 : Byte} (hp : s.preCheck = none) (ht : s.iset = .t32)
    (h0 : s.mem.read s.pc.toNat = some b0) (h1 : s.mem.read (s.pc.toNat + 1) = some b1)
    (hl : isLongT32 (b1 ++ b0) = true) : s.fetch = s.fetchBytes [0, 1, 2, 3] := by
  rw [State.fetch_t32 ht (State.fetchBytes_two hp h0 h1)]
  exact if_pos hl

/-- In T32 state, a halfword that begins no 32-bit instruction is fetched alone (R52, R93). -/
theorem State.fetch_t32_short {s : State} {b0 b1 : Byte} (hp : s.preCheck = none) (ht : s.iset = .t32)
    (h0 : s.mem.read s.pc.toNat = some b0) (h1 : s.mem.read (s.pc.toNat + 1) = some b1)
    (hl : isLongT32 (b1 ++ b0) = false) : s.fetch = .ok [b0, b1] := by
  rw [State.fetch_t32 ht (State.fetchBytes_two hp h0 h1)]
  exact if_neg (by simp [beginsLongT32, halfOfBytes, hl])

/-- Settles O11: the fetch gives the four bytes, and they are matched as the one word they make. -/
theorem stepRunsTheDecodedInstruction : Obligations.StepRunsTheDecodedInstruction := by
  intro s hp
  refine ⟨fun bytes rest i => step_of_decode_ok hp, fun b0 b1 b2 b3 h0 h1 h2 h3 => ?_⟩
  have hfour : s.fetchBytes [0, 1, 2, 3] = .ok [b0, b1, b2, b3] := State.fetchBytes_four hp h0 h1 h2 h3
  constructor
  · intro ha
    have hfetch := (State.fetch_a32 ha).trans hfour
    exact step_of_decode_map hp hfetch (ha ▸ decode_a32_four b0 b1 b2 b3)
  · intro ht hl
    have hfetch := (State.fetch_t32_long hp ht h0 h1 hl).trans hfour
    exact step_of_decode_map hp hfetch (ht ▸ decode_t32_long b2 b3 hl)

/-! The first missing byte (R57, log 12). -/

/-- Of the first `n` bytes at `pc`, the first that memory does not list is the one the fetch names. -/
theorem State.fetchBytes_range_missing {s : State} {k n : Nat} (hp : s.preCheck = none) (hn : n ≤ 4) (hk : k < n)
    (hbefore : ∀ j, j < k → s.mem.read (s.pc.toNat + j) ≠ none) (hmissing : s.mem.read (s.pc.toNat + k) = none) :
    s.fetchBytes (List.range n) = .error (.noProgramText (s.pc + BitVec.ofNat 32 k)) := by
  obtain ⟨m, rfl⟩ : ∃ m, n = k + (m + 1) := ⟨n - k - 1, by omega⟩
  have hbytes : ∀ j ∈ List.range k, ∃ b, s.fetchByte j = .ok b := by
    intro j hj
    have hjk : j < k := List.mem_range.mp hj
    obtain ⟨b, hb⟩ := Option.ne_none_iff_exists'.mp (hbefore j hjk)
    exact ⟨b, State.fetchByte_ok hp (by omega) hb⟩
  rw [List.range_add, List.range_succ_eq_map, List.map_cons, Nat.add_zero]
  exact State.fetchBytes_append_error _ _ hbytes (State.fetchByte_missing hp (by omega) hmissing)

/-- In T32 state, a first halfword that cannot be read whole ends the fetch (R52). -/
theorem State.fetch_t32_error {s : State} {r : Refusal} (ht : s.iset = .t32) (h : s.fetchBytes [0, 1] = .error r) :
    s.fetch = .error r := by
  simp [State.fetch, ht, h]

/-- The fetch names the first missing byte of the instruction: any of four in A32 state, and in T32 state the last two only where
the first two begin a 32-bit instruction. -/
theorem State.fetch_missing {s : State} {k : Nat} (hp : s.preCheck = none) (hk : k < 4)
    (hcounts : s.iset = .a32 ∨ k < 2 ∨ ∃ b0 b1 : Byte, s.mem.read s.pc.toNat = some b0 ∧
      s.mem.read (s.pc.toNat + 1) = some b1 ∧ isLongT32 (b1 ++ b0) = true)
    (hbefore : ∀ j, j < k → s.mem.read (s.pc.toNat + j) ≠ none) (hmissing : s.mem.read (s.pc.toNat + k) = none) :
    s.fetch = .error (.noProgramText (s.pc + BitVec.ofNat 32 k)) := by
  have hfour := State.fetchBytes_range_missing hp (Nat.le_refl 4) hk hbefore hmissing
  cases hi : s.iset with
  | a32 => exact (State.fetch_a32 hi).trans hfour
  | t32 =>
    obtain ha | h2 | ⟨b0, b1, h0, h1, hl⟩ := hcounts
    · cases hi.symm.trans ha
    · exact State.fetch_t32_error hi (State.fetchBytes_range_missing hp (by decide) h2 hbefore hmissing)
    · exact (State.fetch_t32_long hp hi h0 h1 hl).trans hfour

/-- Settles O14: the three ways a step stops between step 0 and the instruction. -/
theorem stepRefusesWhatIsNotThisInstruction : Obligations.StepRefusesWhatIsNotThisInstruction := by
  refine ⟨fun s bytes why => step_of_decode_error, ?_, ?_⟩
  · intro s b0 b1 hp ht h0 h1 hl
    exact step_of_decode_error hp (State.fetch_t32_short hp ht h0 h1 hl) (ht ▸ decode_t32_short [] hl)
  · intro s k hp hk hcounts hbefore hmissing
    exact step_of_fetch_error hp (State.fetch_missing hp hk hcounts hbefore hmissing)

end Sys2Proof.Machine
end

section
/-! PROOFS. The IT state, step 0, and what a step and a run keep: the invariant and the frame of 10_state.md (R28, R29, R32, R40,
R186). -/

namespace Sys2Proof.Machine

/-! `ITAdvance()` (R32). -/

theorem itAdvance_of_low_zero {it : BitVec 8} (h : it.extractLsb' 0 3 = 0#3) : itAdvance it = 0#8 := if_pos h

theorem itAdvance_of_low_ne {it : BitVec 8} (h : it.extractLsb' 0 3 ≠ 0#3) :
    itAdvance it = it.extractLsb' 5 3 ++ (it.extractLsb' 0 5 <<< 1) := if_neg h

theorem itAdvance_high {it : BitVec 8} (h : it.extractLsb' 0 3 ≠ 0#3) :
    (itAdvance it).extractLsb' 5 3 = it.extractLsb' 5 3 := by
  rw [itAdvance_of_low_ne h, extractLsb'_append_high _ _ _ _ (by decide)]
  exact extractLsb'_whole _

theorem itAdvance_low {it : BitVec 8} (h : it.extractLsb' 0 3 ≠ 0#3) :
    (itAdvance it).extractLsb' 0 5 = it.extractLsb' 0 5 <<< 1 := by
  rw [itAdvance_of_low_ne h, extractLsb'_append_low _ _ _ _ (by decide)]
  exact extractLsb'_whole _

/-- Bit by bit, an advance inside a block keeps bits 7 to 5 and moves bits 3 to 0 up by one. -/
theorem itAdvance_getLsbD {it : BitVec 8} (h : it.extractLsb' 0 3 ≠ 0#3) (k : Nat) :
    (itAdvance it).getLsbD k = if k < 5 then decide (0 < k) && it.getLsbD (k - 1) else it.getLsbD k := by
  rw [itAdvance_of_low_ne h, BitVec.getLsbD_append]
  split
  case isTrue hk =>
    rcases Nat.eq_zero_or_pos k with rfl | hpos
    · simp
    · simp [hk, hpos, show ¬ k < 1 by omega]
  case isFalse hk =>
    rw [BitVec.getLsbD_extractLsb', show 5 + (k - 5) = k by omega]
    rcases Nat.lt_or_ge k 8 with h8 | h8
    · simp [show k - 5 < 3 by omega]
    · simp [BitVec.getLsbD_of_ge it k h8]

/-- Every advance shifts the low three bits left, out of a block too: that is what ends a block. -/
theorem itAdvance_low_three (it : BitVec 8) :
    (itAdvance it).extractLsb' 0 3 = it.extractLsb' 0 3 <<< 1 := by
  by_cases h : it.extractLsb' 0 3 = 0#3
  · rw [itAdvance_of_low_zero h, h]; rfl
  · have hfield : (itAdvance it).extractLsb' 0 3 = (it.extractLsb' 0 5 <<< 1).extractLsb' 0 3 := by
      rw [← itAdvance_low h, extractLsb'_of_field _ _ _ _ _ (by decide)]
    rw [hfield]
    ext j hj
    simp [show j < 5 by omega]

theorem itAdvance_four (it : BitVec 8) : itAdvance (itAdvance (itAdvance (itAdvance it))) = 0#8 := by
  apply itAdvance_of_low_zero
  rw [itAdvance_low_three, itAdvance_low_three, itAdvance_low_three, ← BitVec.shiftLeft_add, ← BitVec.shiftLeft_add]
  exact BitVec.shiftLeft_eq_zero (by decide)

/-- An IT state that an advance leaves nonzero is inside a block, so it is none of the refused ones (R32). -/
theorem itAdvance_in_block {it : BitVec 8} (h : it.extractLsb' 0 3 ≠ 0#3) : (itAdvance it).extractLsb' 0 4 ≠ 0#4 := by
  intro hzero
  apply h
  ext j hj
  have hbit : (itAdvance it).getLsbD (j + 1) = ((itAdvance it).extractLsb' 0 4).getLsbD (j + 1) := by
    simp [show j + 1 < 4 by omega]
  rw [itAdvance_getLsbD h, hzero] at hbit
  simpa [show j + 1 < 5 by omega] using hbit

/-- Settles O48, from the two cases of `ITAdvance()`; the low three bits, shifted out, end the block. -/
theorem itBlocksEndWithinFourInstructions : Obligations.ITBlocksEndWithinFourInstructions := by
  intro it
  refine ⟨itAdvance_of_low_zero, fun h => ⟨fun k h5 _ => ?_, fun k h4 => ?_, ?_⟩, fun hne => ?_, itAdvance_four it⟩
  · simp [itAdvance_getLsbD h, show ¬ k < 5 by omega]
  · simp [itAdvance_getLsbD h, show k + 1 < 5 by omega]
  · exact itAdvance_getLsbD h 0
  · have h : it.extractLsb' 0 3 ≠ 0#3 := fun h0 => hne (itAdvance_of_low_zero h0)
    exact ⟨itAdvance_high h, itAdvance_in_block h⟩

/-! What a step leaves (R28, R40, R111). -/

theorem State.afterStep_iset (s : State) (d : Vector DWord Config.numDRegs) : (s.afterStep d).iset = s.iset :=
  s.complete_iset

theorem State.afterStep_itState (s : State) (d : Vector DWord Config.numDRegs) : (s.afterStep d).itState = s.nextIT :=
  s.complete_itState

theorem State.afterStep_modeBits (s : State) (d : Vector DWord Config.numDRegs) : (s.afterStep d).modeBits = s.modeBits :=
  cpsrWithIT_mode _ _

theorem State.afterStep_mode (s : State) (d : Vector DWord Config.numDRegs) : (s.afterStep d).mode = s.mode := by
  rw [State.mode, State.afterStep_modeBits, State.mode]

theorem State.nextIT_a32 {s : State} (h : s.iset = .a32) : s.nextIT = s.itState := by simp [State.nextIT, h]

theorem State.nextIT_t32 {s : State} (h : s.iset = .t32) : s.nextIT = itAdvance s.itState := by simp [State.nextIT, h]

/-- Step 0 passed, `pc + 4` does not wrap (R29). -/
theorem State.afterStep_pc_toNat {s : State} (h : s.preCheck = none) (d : Vector DWord Config.numDRegs) :
    (s.afterStep d).pc.toNat = s.pc.toNat + 4 := by
  obtain ⟨-, hwrap, -⟩ := State.preCheck_none h
  simp only [State.pcWraps, decide_eq_false_iff_not] at hwrap
  rw [State.afterStep_pc, BitVec.toNat_add, BitVec.toNat_ofNat]
  omega

/-- The whole of what a step can change (R28, R40). -/
theorem step_afterStep {s t : State} (h : step s = .next t) : s.preCheck = none ∧ t = s.afterStep t.dregs := by
  obtain ⟨-, -, i, -, -, -, hi⟩ := step_next h
  obtain ⟨hp, d, rfl⟩ := exec_next hi
  exact ⟨hp, rfl⟩

/-! The three tests of step 0, each on the state itself (R29, R32). -/

theorem extractLsb'_zero_eq_zero_iff {n : Nat} (x : BitVec n) (len : Nat) :
    x.extractLsb' 0 len = 0#len ↔ x.toNat % 2 ^ len = 0 := by
  rw [BitVec.toNat_eq]
  simp

theorem State.misalignedPC_iff (s : State) :
    s.misalignedPC = true ↔ (s.iset = .a32 ∧ s.pc.toNat % 4 ≠ 0) ∨ (s.iset = .t32 ∧ s.pc.toNat % 2 ≠ 0) := by
  cases hi : s.iset <;> simp [State.misalignedPC, hi, extractLsb'_zero_eq_zero_iff]

theorem State.pcWraps_iff (s : State) : s.pcWraps = true ↔ 0xFFFFFFFC ≤ s.pc.toNat := by
  simp only [State.pcWraps, decide_eq_true_eq]
  omega

theorem State.badITSTATE_iff (s : State) :
    s.badITSTATE = true ↔ (s.iset = .a32 ∧ s.itState ≠ 0#8) ∨
      (s.iset = .t32 ∧ s.itState.toNat % 16 = 0 ∧ 16 ≤ s.itState.toNat) := by
  cases hi : s.iset
  case a32 => simp [State.badITSTATE, hi]
  case t32 =>
    have hne : s.itState ≠ 0#8 ↔ s.itState.toNat ≠ 0 := by rw [Ne, BitVec.toNat_eq]; rfl
    simp [State.badITSTATE, State.inITBlock, hi, extractLsb'_zero_eq_zero_iff, hne]
    omega

theorem step_of_preCheck_some {s : State} {r : Refusal} (h : s.preCheck = some r) : step s = .refused r := by
  simp [step, h]

/-- Settles O13: `preCheck` makes the three tests in this order, and a step refuses what it refuses. -/
theorem stepZeroRefusesInItsOrder : Obligations.StepZeroRefusesInItsOrder := by
  intro s
  simp only [← State.misalignedPC_iff, ← State.pcWraps_iff, ← State.badITSTATE_iff]
  refine ⟨fun hm => ?_, fun hm hw => ?_, fun hm hw hb => ?_, fun hm hw hb => ?_⟩
  · exact step_of_preCheck_some (by simp [State.preCheck, hm])
  · exact step_of_preCheck_some (by simp [State.preCheck, hm, hw])
  · exact step_of_preCheck_some (by simp [State.preCheck, hm, hw, hb])
  · simp [State.preCheck, hm, hw, hb]

/-! The invariant. -/

theorem State.misalignedPC_afterStep {s : State} (hp : s.preCheck = none) (d : Vector DWord Config.numDRegs) :
    (s.afterStep d).misalignedPC = s.misalignedPC := by
  have h4 : (s.pc.toNat + 4) % 4 = s.pc.toNat % 4 := by omega
  have h2 : (s.pc.toNat + 4) % 2 = s.pc.toNat % 2 := by omega
  rw [Bool.eq_iff_iff, State.misalignedPC_iff, State.misalignedPC_iff, State.afterStep_iset, State.afterStep_pc_toNat hp, h4, h2]

/-- The advance keeps the IT state proper in T32 state, and A32 state leaves it alone (R32). -/
theorem State.badITSTATE_afterStep {s : State} (h : s.badITSTATE = false) (d : Vector DWord Config.numDRegs) :
    (s.afterStep d).badITSTATE = false := by
  cases hi : s.iset with
  | a32 =>
    have hkeep : (s.afterStep d).itState = s.itState := (s.afterStep_itState d).trans (State.nextIT_a32 hi)
    rw [State.badITSTATE, State.afterStep_iset, hkeep, hi]
    simpa [State.badITSTATE, hi] using h
  | t32 =>
    have hadv : (s.afterStep d).itState = itAdvance s.itState := (s.afterStep_itState d).trans (State.nextIT_t32 hi)
    rw [State.badITSTATE, State.inITBlock, State.afterStep_iset, hadv, hi]
    by_cases hlow : s.itState.extractLsb' 0 3 = 0#3
    · simp [itAdvance_of_low_zero hlow]
    · simp [itAdvance_in_block hlow]

/-- A completing step keeps each of the four parts of a well-formed state. -/
theorem State.WellFormed.afterStep {s : State} (h : s.WellFormed) (hp : s.preCheck = none)
    (d : Vector DWord Config.numDRegs) : (s.afterStep d).WellFormed where
  aligned := (State.misalignedPC_afterStep hp d).trans h.aligned
  itState := State.badITSTATE_afterStep h.itState d
  legalMode := (congrArg Option.isSome (s.afterStep_mode d)).trans h.legalMode
  memory := State.afterStep_mem_wf d h.memory

/-- Settles O15: the step lemma of the invariant, part by part. -/
theorem everyStepKeepsTheStateWellFormed : Obligations.EveryStepKeepsTheStateWellFormed := by
  intro s t hs h
  obtain ⟨hp, ht⟩ := step_afterStep h
  rw [ht]
  exact hs.afterStep hp t.dregs

/-! The frame of a step and of a run (R28, R40, R186). -/

/-- Settles O17: what `afterStep` says of each field, with `ITAdvance()` on the bits of CPSR. -/
theorem everyStepFrames : Obligations.EveryStepFrames := by
  intro s t h
  obtain ⟨hp, ht⟩ := step_afterStep h
  have hadvance : s.iset = .t32 → t.itState = itAdvance s.itState := fun hi => by
    rw [ht, State.afterStep_itState, State.nextIT_t32 hi]
  refine ⟨by rw [ht]; rfl, by rw [ht, State.afterStep_pc_toNat hp], fun k hlow hhigh => ?_, fun hi => ?_, hadvance,
    fun hthumb => ⟨fun hzero => ?_, fun hne => ?_⟩, fun a => by rw [ht, State.afterStep_mem]⟩
  · rw [ht, State.afterStep_cpsr, cpsrWithIT_getLsbD _ _ _ ⟨hlow, hhigh⟩]
  · rw [ht]
    exact State.complete_cpsr_a32 hi
  · exact (hadvance (State.iset_of_thumb hthumb)).trans (itAdvance_of_low_zero hzero)
  · rw [← State.itState, hadvance (State.iset_of_thumb hthumb)]
    exact ⟨itAdvance_high hne, itAdvance_low hne⟩

/-- What `k` steps do to the state, whatever the instructions: `pc` and the count of draws go forward, CPSR changes in ITSTATE
alone, and only the D registers and the coming draws are left open. -/
structure State.RunFrame (k : Nat) (s t : State) : Prop where
  pc : t.pc.toNat = s.pc.toNat + 4 * k
  drawsTaken : t.drawsTaken = s.drawsTaken + k
  fields : t = { s with dregs := t.dregs, pc := t.pc, cpsr := t.cpsr, draws := t.draws, drawsTaken := t.drawsTaken }
  cpsr : ∀ j, ¬(10 ≤ j ∧ j < 16) → ¬(25 ≤ j ∧ j < 27) → t.cpsr.getLsbD j = s.cpsr.getLsbD j

theorem State.RunFrame.refl (s : State) : s.RunFrame 0 s := ⟨rfl, rfl, rfl, fun _ _ _ => rfl⟩

theorem State.RunFrame.cons {k : Nat} {s u t : State} (hu : step s = .next u) (h : u.RunFrame k t) : s.RunFrame (k + 1) t := by
  obtain ⟨hfields, hpc, hcpsr, -, -, -, -⟩ := everyStepFrames s u hu
  have hdraws : u.drawsTaken = s.drawsTaken + 1 := by rw [hfields]
  refine ⟨?_, ?_, ?_, fun j hlow hhigh => (h.cpsr j hlow hhigh).trans (hcpsr j hlow hhigh)⟩
  · rw [h.pc, hpc]; omega
  · rw [h.drawsTaken, hdraws]; omega
  · rw [h.fields, hfields]

theorem reaches_succ {k : Nat} {s t : State} (h : Reaches (k + 1) s t) : ∃ u, step s = .next u ∧ Reaches k u t := by
  simp only [Reaches, Host.Core.run] at h
  split at h
  case h_1 u hu => exact ⟨u, hu, h⟩
  case h_2 => cases h
  case h_3 => cases h

theorem Reaches.runFrame {k : Nat} {s t : State} (h : Reaches k s t) : s.RunFrame k t := by
  induction k generalizing s with
  | zero =>
    cases h
    exact .refl _
  | succ k ih =>
    obtain ⟨u, hu, hrest⟩ := reaches_succ h
    exact .cons hu (ih hrest)

/-- The mode field lies below ITSTATE in CPSR (R39). -/
theorem State.RunFrame.modeBits {k : Nat} {s t : State} (h : s.RunFrame k t) : t.modeBits = s.modeBits := by
  ext j hj
  simpa [State.modeBits] using h.cpsr j (by omega) (by omega)

theorem State.RunFrame.iset {k : Nat} {s t : State} (h : s.RunFrame k t) : t.iset = s.iset := by
  have hthumb : t.thumb = s.thumb := h.cpsr 5 (by decide) (by decide)
  rw [State.iset, hthumb, State.iset]

/-- Settles O21, by induction on the number of steps; the flags, the mode and the set are bits of CPSR outside ITSTATE. -/
theorem runsAdvanceThePcAndKeepTheControls : Obligations.RunsAdvanceThePcAndKeepTheControls := by
  intro k s t hrun
  have h := hrun.runFrame
  exact ⟨h.pc, h.drawsTaken, h.fields, h.cpsr 31 (by decide) (by decide), h.cpsr 30 (by decide) (by decide),
    h.cpsr 29 (by decide) (by decide), h.cpsr 28 (by decide) (by decide), h.modeBits, h.iset⟩

end Sys2Proof.Machine
end

section
/-! PROOFS. The register file: its three views, and which D registers an instruction writes (R20 to R25, R109, R110). -/

namespace Sys2Proof.Machine

/-! The three views of the register file (R20 to R22). -/

/-- The half of its D register that `S[n]` is, by the parity of `n` (R21). -/
def sHalf (n : SReg) (w : DWord) : Word := if n.getLsbD 0 then w.extractLsb' 32 32 else w.extractLsb' 0 32

/-- A D register with that half replaced (R21). -/
def sInsert (n : SReg) (v : Word) (w : DWord) : DWord :=
  if n.getLsbD 0 then v ++ w.extractLsb' 0 32 else w.extractLsb' 32 32 ++ v

theorem State.readS_eq_sHalf (s : State) (n : SReg) : s.readS n = sHalf n (s.readD (sHome n)) := rfl

theorem State.writeS_eq_sInsert (s : State) (n : SReg) (v : Word) :
    s.writeS n v = s.writeD (sHome n) (sInsert n v (s.readD (sHome n))) := rfl

theorem sHalf_sInsert_same (n : SReg) (v : Word) (w : DWord) : sHalf n (sInsert n v w) = v := by
  cases hn : n.getLsbD 0
  · simp only [sHalf, sInsert, hn, Bool.false_eq_true, if_false]
    exact (extractLsb'_append_low _ _ _ _ (by decide)).trans (extractLsb'_whole _)
  · simp only [sHalf, sInsert, hn, if_true]
    exact (extractLsb'_append_high _ _ _ _ (by decide)).trans (extractLsb'_whole _)

theorem sHalf_sInsert_other {m n : SReg} (v : Word) (w : DWord) (h : m.getLsbD 0 ≠ n.getLsbD 0) :
    sHalf m (sInsert n v w) = sHalf m w := by
  cases hn : n.getLsbD 0 <;> cases hm : m.getLsbD 0
  case false.false | true.true => exact absurd (hm.trans hn.symm) h
  case false.true =>
    simp only [sHalf, sInsert, hn, hm, if_true, Bool.false_eq_true, if_false]
    exact (extractLsb'_append_high _ _ _ _ (by decide)).trans (extractLsb'_whole _)
  case true.false =>
    simp only [sHalf, sInsert, hn, hm, if_true, Bool.false_eq_true, if_false]
    exact (extractLsb'_append_low _ _ _ _ (by decide)).trans (extractLsb'_whole _)

/-- The number of an S register is its D register and its half. -/
theorem eq_of_sHome_eq {m n : SReg} (hhome : sHome m = sHome n) (hhalf : m.getLsbD 0 = n.getLsbD 0) : m = n := by
  have hdiv : m.toNat / 2 = n.toNat / 2 := by rw [← sHome_toNat, hhome, sHome_toNat]
  rw [getLsbD_zero_toNat, getLsbD_zero_toNat, decide_eq_decide] at hhalf
  exact BitVec.eq_of_toNat_eq (by omega)

theorem State.readS_writeS_same (s : State) (n : SReg) (v : Word) : (s.writeS n v).readS n = v := by
  rw [State.readS_eq_sHalf, State.writeS_eq_sInsert, State.readD_writeD_same, sHalf_sInsert_same]

theorem State.readS_writeS_other (s : State) {m n : SReg} (v : Word) (h : m ≠ n) : (s.writeS n v).readS m = s.readS m := by
  rw [State.readS_eq_sHalf, State.readS_eq_sHalf, State.writeS_eq_sInsert]
  by_cases hhome : sHome m = sHome n
  · rw [hhome, State.readD_writeD_same, sHalf_sInsert_other v _ fun hhalf => h (eq_of_sHome_eq hhome hhalf)]
  · rw [State.readD_writeD_other _ _ hhome]

theorem State.readD_writeS_other (s : State) {d : DReg} {n : SReg} (v : Word) (h : d ≠ sHome n) :
    (s.writeS n v).readD d = s.readD d := by
  rw [State.writeS_eq_sInsert, State.readD_writeD_other _ _ h]

/-- Settles O34: an S write replaces one half of one of D0 to D15. -/
theorem sViewReadsWhatWasWritten : Obligations.SViewReadsWhatWasWritten := by
  intro s n v
  refine ⟨s.readS_writeS_same n v, fun m hm => s.readS_writeS_other v hm, fun d hd => s.readD_writeS_other v ?_⟩
  rintro rfl
  rw [sHome_toNat] at hd
  omega

theorem sHome_append (k : BitVec 4) (b : BitVec 1) : sHome (k ++ b) = 0#1 ++ k := by
  revert k b; decide

theorem getLsbD_zero_append (k : BitVec 4) (b : BitVec 1) : (k ++ b : SReg).getLsbD 0 = (b == 1#1) := by
  revert k b; decide

/-- `D[k]` joins the S registers it holds (R21). -/
theorem State.readD_eq_readS (s : State) (k : BitVec 4) : s.readD (0#1 ++ k) = s.readS (k ++ 1#1) ++ s.readS (k ++ 0#1) := by
  have hodd : s.readS (k ++ 1#1) = (s.readD (0#1 ++ k)).extractLsb' 32 32 := by
    rw [State.readS, getLsbD_zero_append, sHome_append]; rfl
  have heven : s.readS (k ++ 0#1) = (s.readD (0#1 ++ k)).extractLsb' 0 32 := by
    rw [State.readS, getLsbD_zero_append, sHome_append]; rfl
  rw [hodd, heven]
  exact ((extractLsb'_join _ 0 32 32).trans (extractLsb'_whole _)).symm

/-- Settles O35: a D register joins its two halves, and a Q register is the pair `2n`, `2n + 1`. -/
theorem viewsOverlap : Obligations.ViewsOverlap := by
  intro s
  refine ⟨s.readD_eq_readS, fun n => ?_⟩
  have hodd : (n ++ 1#1 : DReg) = BitVec.ofNat 5 (2 * n.toNat + 1) := by revert n; decide
  have heven : (n ++ 0#1 : DReg) = BitVec.ofNat 5 (2 * n.toNat) := by revert n; decide
  rw [State.readQ, hodd, heven]

/-! What the result write does to each D register (R23, R109, R110). -/

/-- What an instruction can do when it answers a next state, with its own condition and bindings (R100). -/
theorem exec_next_cases {i : Instr} {s t : State} (h : exec i s = .next t) :
    ∃ c, currentCond i s = some c ∧
      ((s.conditionPassed c = true ∧ ∃ b, instrVerdict i s = .ok b ∧ t = (s.writeResult b).complete) ∨
        (s.conditionPassed c = false ∧ t = s.complete)) := by
  rw [exec_eq_runVmov] at h
  obtain ⟨-, -, -, c, hc, hop⟩ := State.runVmov_next h
  obtain ⟨hpass, b, hb, -, ht⟩ | hfail := State.operate_next hop
  · exact ⟨c, hc, .inl ⟨hpass, b, hb, ht⟩⟩
  · exact ⟨c, hc, .inr hfail⟩

theorem State.readD_complete (s : State) (n : DReg) : s.complete.readD n = s.readD n := rfl

/-- Reading after a result write whose D registers are those that `dregsWith` picks. -/
theorem State.readD_of_dregsWith {s u : State} {which : Nat → Bool} {v : DWord} (h : u.dregs = s.dregsWith which v) (n : DReg) :
    u.readD n = if which n.toNat then v else s.readD n := by
  rw [State.readD, ← State.readD_dregsWith, ← h]
  rfl

/-- A binding of at most 32 bits writes in the one D register that holds its S register (R109). -/
theorem State.readD_writeResult_narrow (s : State) {b : Binding} (hb : b.esize ≤ 32) {n : DReg} (h : n.toNat ≠ b.d.toNat / 2) :
    (s.writeResult b).readD n = s.readD n := by
  rw [State.writeResult, if_pos hb]
  refine s.readD_writeS_other _ fun hn => h ?_
  rw [hn, sHome_toNat]

theorem State.decodeFP_ok {s : State} {size : FpSize} {conditional : Bool} {m : BitVec 8} {d : BitVec 5} {b : Binding}
    (h : s.decodeFP size conditional m d = .ok b) : b = bindFP size m d := by
  unfold State.decodeFP at h
  split at h
  · cases h
  · split at h
    · cases h
    · split at h
      · cases h
      · exact (Verdict.ok.inj h).symm

/-- The result write of an instruction: outside the registers it may write nothing changes, and where its constant is a whole D
register, each of those holds it. -/
structure State.WritesOnly (s : State) (i : Instr) (b : Binding) : Prop where
  other : ∀ n, mayWrite n i = false → (s.writeResult b).readD n = s.readD n
  constant : ∀ n v, wholeConstant i = some v → mayWrite n i = true → (s.writeResult b).readD n = v

/-- A whole-register row: its write is `dregsWith` of its constant in the registers it may write. -/
theorem State.WritesOnly.of_dregsWith {s : State} {i : Instr} {b : Binding} {which : Nat → Bool} {v : DWord}
    (hwrite : (s.writeResult b).dregs = s.dregsWith which v) (hwhich : ∀ n : DReg, mayWrite n i = which n.toNat)
    (hv : wholeConstant i = some v) : s.WritesOnly i b where
  other n hn := by simp [State.readD_of_dregsWith hwrite, ← hwhich, hn]
  constant n w hw hn := by
    rw [State.readD_of_dregsWith hwrite, ← hwhich, if_pos hn]
    exact Option.some.inj (hv.symm.trans hw)

/-- A row that writes an S register. -/
theorem State.WritesOnly.of_narrow {s : State} {i : Instr} {b : Binding} (hb : b.esize ≤ 32)
    (hwhich : ∀ n : DReg, mayWrite n i = decide (n.toNat = b.d.toNat / 2)) (hv : wholeConstant i = none) : s.WritesOnly i b where
  other n hn := s.readD_writeResult_narrow hb (by simpa [hwhich] using hn)
  constant n w hw := by simp [hv] at hw

theorem decide_eq_toNat_beq (n d : DReg) : decide (n = d) = (n.toNat == d.toNat) := by
  rw [Bool.eq_iff_iff]
  simp [BitVec.toNat_eq]

/-- Every instruction writes only the registers it may write (R23): one D register, a pair, or the home of an S register. -/
theorem State.writesOnly_of_verdict {i : Instr} {s : State} {b : Binding} (h : instrVerdict i s = .ok b) : s.WritesOnly i b := by
  cases i with
  | vmovI32A1D _ d _ | vmovI16A3D _ d _ | vmovI32A4D _ d _ | vmovI8A4D d _ | vmovF32A4D d _ | vmovI64A5D d _
  | vmovI32T1D _ d _ | vmovI16T3D _ d _ | vmovI32T4D _ d _ | vmovI8T4D d _ | vmovF32T4D d _ | vmovI64T5D d _ =>
    cases h
    exact .of_dregsWith (s.writeResult_bindD _ _ _ d) (fun n => decide_eq_toNat_beq n d) rfl
  | vmovI32A1Q _ q _ | vmovI16A3Q _ q _ | vmovI32A4Q _ q _ | vmovI8A4Q q _ | vmovF32A4Q q _ | vmovI64A5Q q _
  | vmovI32T1Q _ q _ | vmovI16T3Q _ q _ | vmovI32T4Q _ q _ | vmovI8T4Q q _ | vmovF32T4Q q _ | vmovI64T5Q q _ =>
    cases h
    exact .of_dregsWith (s.writeResult_bindQ _ _ _ q) (fun n => rfl) rfl
  | vmovF16A2 | vmovF16T2 | vmovF32A2 | vmovF32T2 =>
    cases State.decodeFP_ok h
    exact .of_narrow (by simp [bindFP, FpSize.esize]) (fun n => rfl) rfl
  | vmovF64A2 _ d _ _ | vmovF64T2 d _ _ =>
    cases State.decodeFP_ok h
    exact .of_dregsWith (s.writeResult_bindFP_double _ d) (fun n => decide_eq_toNat_beq n d) rfl
  | undefinedA1 | undefinedA3 | undefinedA4 | undefinedA5 | undefinedA2
  | undefinedT1 | undefinedT3 | undefinedT4 | undefinedT5 | undefinedT2 => cases h

/-- Settles O18: a passed condition writes only the registers the instruction may write, and a failed one writes none. -/
theorem noInstructionWritesAnotherRegister : Obligations.NoInstructionWritesAnotherRegister := by
  intro i s t n h hn
  obtain ⟨c, -, ⟨-, b, hb, ht⟩ | ⟨-, ht⟩⟩ := exec_next_cases h
  · rw [ht, State.readD_complete, (State.writesOnly_of_verdict hb).other n hn]
  · rw [ht, State.readD_complete]

/-- A completed instruction with its condition passed leaves its 64-bit constant in each D register it may write (R110). -/
theorem exec_next_constant {i : Instr} {s t : State} {n : DReg} {c : Cond} {v : DWord} (h : exec i s = .next t)
    (hv : wholeConstant i = some v) (hn : mayWrite n i = true) (hc : currentCond i s = some c)
    (hpass : s.conditionPassed c = true) : t.readD n = v := by
  obtain ⟨c', hc', ⟨-, b, hb, ht⟩ | ⟨hfail, -⟩⟩ := exec_next_cases h
  · rw [ht, State.readD_complete, (State.writesOnly_of_verdict hb).constant n v hv hn]
  · cases Option.some.inj (hc.symm.trans hc')
    cases hpass.symm.trans hfail

end Sys2Proof.Machine
end

section
/-! PROOFS. What the machine does not depend on: the D registers, FPSCR and CPSR.DIT (R23, R33, R38). -/

namespace Sys2Proof.Machine

/-! Two states that the Operation cannot tell apart (R33, R38, R112). -/

/-- `s` and `u` give the same answers to everything that step 0, the condition, the enable check and the draw read. Only decode's
verdict, which reads FPSCR too, is left out. -/
structure State.ChecksAlike (s u : State) : Prop where
  pc : u.pc = s.pc
  iset : u.iset = s.iset
  itState : u.itState = s.itState
  condition : ∀ c, u.conditionPassed c = s.conditionPassed c
  enableCheck : ∀ advsimd, u.enableCheck advsimd = s.enableCheck advsimd
  draw : u.undefWhenCondFails = s.undefWhenCondFails

/-- Two outcomes that agree but for their next states, which `g` and `k` make equal. -/
theorem mapNext_eq_cases {g k : State → State} {o o' : Outcome} (h : mapNext g o = mapNext k o') :
    (∃ t t', o = .next t ∧ o' = .next t') ∨ (∃ f, o = .fault f ∧ o' = .fault f) ∨ ∃ r, o = .refused r ∧ o' = .refused r := by
  cases o with
  | next t =>
    cases o' with
    | next t' => exact .inl ⟨t, t', rfl, rfl⟩
    | fault _ => cases h
    | refused _ => cases h
  | fault f =>
    cases o' with
    | next _ => cases h
    | fault _ => cases h; exact .inr (.inl ⟨f, rfl, rfl⟩)
    | refused _ => cases h
  | refused r =>
    cases o' with
    | next _ => cases h
    | fault _ => cases h
    | refused _ => cases h; exact .inr (.inr ⟨r, rfl, rfl⟩)

theorem mapNext_id (o : Outcome) : mapNext id o = o := by cases o <;> rfl

theorem mapNext_raiseFault (g : State → State) (f : FaultKind) (s : State) : mapNext g (raiseFault f s) = raiseFault f s := by
  cases f <;> rfl

namespace State.ChecksAlike

variable {s u : State}

theorem inITBlock (h : s.ChecksAlike u) : u.inITBlock = s.inITBlock := by
  rw [State.inITBlock, h.itState, State.inITBlock]

theorem misalignedPC (h : s.ChecksAlike u) : u.misalignedPC = s.misalignedPC := by
  rw [State.misalignedPC, h.iset, h.pc, State.misalignedPC]

theorem badITSTATE (h : s.ChecksAlike u) : u.badITSTATE = s.badITSTATE := by
  rw [State.badITSTATE, h.iset, h.itState, h.inITBlock, State.badITSTATE]

theorem preCheck (h : s.ChecksAlike u) : u.preCheck = s.preCheck := by
  rw [State.preCheck, h.misalignedPC, State.pcWraps, h.pc, h.badITSTATE, State.preCheck, State.pcWraps]

theorem currentCond (h : s.ChecksAlike u) (i : Instr) : currentCond i u = currentCond i s := by
  have hit : u.itCondition = s.itCondition := by rw [State.itCondition, h.inITBlock, h.itState, State.itCondition]
  unfold Machine.currentCond
  rw [hit]

theorem raiseFault (h : s.ChecksAlike u) (f : FaultKind) : raiseFault f u = raiseFault f s := by
  cases f <;> simp [Machine.raiseFault, h.pc]

variable {g k : State → State} {write write' : Binding → State}

theorem mapNext_checkAndWrite (h : s.ChecksAlike u) (v : Verdict) (hwrite : ∀ b, g (write b).complete = k (write' b).complete) :
    mapNext g (s.checkAndWrite v write) = mapNext k (u.checkAndWrite v write') := by
  cases v with
  | unpred => rfl
  | undef => simp only [State.checkAndWrite, mapNext_raiseFault, h.raiseFault]
  | ok b =>
    simp only [State.checkAndWrite, h.enableCheck]
    split
    · rfl
    · simp only [mapNext_raiseFault, h.raiseFault]
    · simp only [mapNext_raiseFault, h.raiseFault]
    · exact congrArg Host.Outcome.next (hwrite b)

theorem mapNext_operate (h : s.ChecksAlike u) (c : Cond) (v : Verdict) (hcomplete : g s.complete = k u.complete)
    (hwrite : ∀ b, g (s.writeResult b).complete = k (u.writeResult b).complete) :
    mapNext g (s.operate c v) = mapNext k (u.operate c v) := by
  simp only [State.operate, h.condition, h.draw]
  split
  case isTrue => exact h.mapNext_checkAndWrite v hwrite
  case isFalse =>
    have hfailed : mapNext g (s.checkAndWrite v fun _ => s) = mapNext k (u.checkAndWrite v fun _ => u) :=
      h.mapNext_checkAndWrite v fun _ => hcomplete
    obtain ⟨t, t', hs, hu⟩ | ⟨f, hs, hu⟩ | ⟨r, hs, hu⟩ := mapNext_eq_cases hfailed
    · simp only [hs, hu, mapNext, hcomplete]
    · simp only [hs, hu]
      split
      · rfl
      · exact congrArg Host.Outcome.next hcomplete
    · simp only [hs, hu]
      split
      · rfl
      · exact congrArg Host.Outcome.next hcomplete

theorem mapNext_runVmov (h : s.ChecksAlike u) (z : SbzBits) (oc : Option Cond) (v : Verdict) (hcomplete : g s.complete = k u.complete)
    (hwrite : ∀ b, g (s.writeResult b).complete = k (u.writeResult b).complete) :
    mapNext g (s.runVmov z oc v) = mapNext k (u.runVmov z oc v) := by
  simp only [State.runVmov, h.preCheck]
  split
  · rfl
  · split
    · rfl
    · split
      · rfl
      · split
        · rfl
        · exact h.mapNext_operate _ v hcomplete hwrite

/-- Where decode concludes the same, an instruction does the same to both, up to what `g` and `k` forget or change. -/
theorem mapNext_exec {i : Instr} (h : s.ChecksAlike u) (hverdict : instrVerdict i u = instrVerdict i s)
    (hcomplete : g s.complete = k u.complete) (hwrite : ∀ b, g (s.writeResult b).complete = k (u.writeResult b).complete) :
    mapNext g (exec i s) = mapNext k (exec i u) := by
  rw [exec_eq_runVmov, exec_eq_runVmov, h.currentCond, hverdict]
  exact h.mapNext_runVmov _ _ _ hcomplete hwrite

theorem fetchBytes (h : s.ChecksAlike u) (hmem : u.mem = s.mem) (ks : List Nat) : u.fetchBytes ks = s.fetchBytes ks := by
  have hbyte (k : Nat) : u.fetchByte k = s.fetchByte k := by rw [State.fetchByte, hmem, h.pc, State.fetchByte]
  induction ks with
  | nil => rfl
  | cons k ks ih => rw [State.fetchBytes, hbyte, ih, State.fetchBytes]

theorem fetch (h : s.ChecksAlike u) (hmem : u.mem = s.mem) : u.fetch = s.fetch := by
  simp only [State.fetch, h.iset, h.fetchBytes hmem]

end State.ChecksAlike

/-! Changes outside the D registers that no check sees. -/

theorem State.writeResult_dregs_congr {s u : State} (h : u.dregs = s.dregs) (b : Binding) :
    (u.writeResult b).dregs = (s.writeResult b).dregs := by
  have hwriteDs (d : DReg) (v : DWord) (n : Nat) : (u.writeDs d v n).dregs = (s.writeDs d v n).dregs := by
    induction n with
    | zero => exact h
    | succ n ih => rw [State.writeDs, State.writeDs, State.writeD_dregs, State.writeD_dregs, ih]
  unfold State.writeResult
  split
  · rw [State.writeS_dregs, State.writeS_dregs, State.dregsWithS, State.dregsWithS, h]
  · exact hwriteDs _ _ _

/-- An instruction commutes with a change that its checks do not see and that completion neither reads nor undoes. -/
theorem exec_commutes {f : State → State} {i : Instr} {s : State} (h : s.ChecksAlike (f s))
    (hverdict : instrVerdict i (f s) = instrVerdict i s) (hdregs : (f s).dregs = s.dregs)
    (hstep : ∀ d, (f s).afterStep d = f (s.afterStep d)) : exec i (f s) = mapNext f (exec i s) := by
  have hwrite (b : Binding) : f (s.writeResult b).complete = id ((f s).writeResult b).complete := by
    rw [State.writeResult_complete, State.writeResult_complete, State.writeResult_dregs_congr hdregs, ← hstep]; rfl
  have hcomplete : f s.complete = id (f s).complete := by
    rw [State.complete_eq_afterStep, State.complete_eq_afterStep, hdregs, hstep]; rfl
  rw [h.mapNext_exec hverdict hcomplete hwrite, mapNext_id]

/-- Of the state, decode reads InITBlock, Len, Stride and HasFP16 (R150). -/
theorem instrVerdict_congr {s u : State} (i : Instr) (hblock : u.inITBlock = s.inITBlock) (hlen : u.fpscrLen = s.fpscrLen)
    (hstride : u.fpscrStride = s.fpscrStride) (hfp16 : u.hasFP16 = s.hasFP16) : instrVerdict i u = instrVerdict i s := by
  have hdecode (size : FpSize) (conditional : Bool) (m : BitVec 8) (d : BitVec 5) :
      u.decodeFP size conditional m d = s.decodeFP size conditional m d := by
    rw [State.decodeFP, hlen, hstride, hfp16, State.decodeFP]
  cases i with
  | vmovF16A2 | vmovF32A2 | vmovF64A2 => exact hdecode _ _ _ _
  | vmovF16T2 | vmovF32T2 | vmovF64T2 =>
    simp only [instrVerdict, hblock, hdecode]
  | _ => rfl

/-- The decode text of the Advanced SIMD rows reads no part of the state (R120). -/
theorem instrVerdict_simd {i : Instr} (h : rowKind i = .simd) (s u : State) : instrVerdict i u = instrVerdict i s := by
  cases i with
  | vmovF16A2 | vmovF32A2 | vmovF64A2 | vmovF16T2 | vmovF32T2 | vmovF64T2 => cases h
  | _ => rfl

/-- Settles O49: the checks read no D register, and what a whole-register row writes is its constant. -/
theorem noInstructionReadsARegister : Obligations.NoInstructionReadsARegister := by
  intro i s ds
  have halike : s.ChecksAlike { s with dregs := ds } := ⟨rfl, rfl, rfl, fun _ => rfl, fun _ => rfl, rfl⟩
  refine ⟨halike.mapNext_exec (instrVerdict_congr i rfl rfl rfl rfl) rfl fun b => ?_, ?_⟩
  · rw [State.writeResult_complete, State.writeResult_complete]; rfl
  · intro t u n c hwhole ht hu hn hc hpass
    obtain ⟨v, hv⟩ := Option.isSome_iff_exists.mp hwhole
    have hcu : currentCond i { s with dregs := ds } = some c := (halike.currentCond i).trans hc
    exact (exec_next_constant ht hv hn hc hpass).trans (exec_next_constant hu hv hn hcu hpass).symm

theorem State.checksAlike_fpscr (s : State) (f : Word) : s.ChecksAlike { s with fpscr := f } :=
  ⟨rfl, rfl, rfl, fun _ => rfl, fun _ => rfl, rfl⟩

/-- Settles O50: only decode reads FPSCR, and that of the Advanced SIMD rows does not. -/
theorem advancedSimdDoesNotReadFpscr : Obligations.AdvancedSimdDoesNotReadFpscr := by
  intro i s f hsimd
  exact exec_commutes (f := fun t => { t with fpscr := f }) (s.checksAlike_fpscr f) (instrVerdict_simd hsimd _ _) rfl fun _ => rfl

/-- Settles O51: of FPSCR, decode reads Len and Stride. -/
theorem scalarRowsReadOnlyLenAndStride : Obligations.ScalarRowsReadOnlyLenAndStride := by
  intro i s f hlen hstride
  exact exec_commutes (f := fun t => { t with fpscr := f }) (s.checksAlike_fpscr f) (instrVerdict_congr i rfl hlen hstride rfl)
    rfl fun _ => rfl

/-! CPSR.DIT (R38, R205). -/

/-- Inverting DIT leaves every other bit of CPSR. -/
theorem State.flipDIT_getLsbD (s : State) {k : Nat} (h : k ≠ 21) : s.flipDIT.cpsr.getLsbD k = s.cpsr.getLsbD k := by
  have hmask : (0x00200000#32) = BitVec.twoPow 32 21 := by decide
  simp [State.flipDIT, hmask, BitVec.getLsbD_twoPow, h.symm]

theorem State.flipDIT_extractLsb' (s : State) {start len : Nat} (h : start + len ≤ 21 ∨ 21 < start) :
    s.flipDIT.cpsr.extractLsb' start len = s.cpsr.extractLsb' start len := by
  ext j hj
  simp only [BitVec.getElem_extractLsb']
  exact s.flipDIT_getLsbD (by omega)

theorem State.flipDIT_iset (s : State) : s.flipDIT.iset = s.iset := by
  have hthumb : s.flipDIT.thumb = s.thumb := s.flipDIT_getLsbD (by decide)
  rw [State.iset, hthumb, State.iset]

theorem State.flipDIT_itState (s : State) : s.flipDIT.itState = s.itState := by
  rw [State.itState, s.flipDIT_extractLsb' (by decide), s.flipDIT_extractLsb' (by decide), State.itState]

theorem State.flipDIT_conditionPassed (s : State) (c : Cond) : s.flipDIT.conditionPassed c = s.conditionPassed c := by
  rw [State.conditionPassed_cpsr, s.flipDIT_getLsbD (by decide), s.flipDIT_getLsbD (by decide),
    s.flipDIT_getLsbD (by decide), s.flipDIT_getLsbD (by decide), State.conditionPassed_cpsr]

theorem State.flipDIT_enableCheck (s : State) (advsimd : Bool) : s.flipDIT.enableCheck advsimd = s.enableCheck advsimd := by
  have hmode : s.flipDIT.modeBits = s.modeBits := s.flipDIT_extractLsb' (by decide)
  unfold State.enableCheck
  rw [hmode]
  rfl

theorem State.checksAlike_flipDIT (s : State) : s.ChecksAlike s.flipDIT where
  pc := rfl
  iset := s.flipDIT_iset
  itState := s.flipDIT_itState
  condition := s.flipDIT_conditionPassed
  enableCheck := s.flipDIT_enableCheck
  draw := rfl

theorem xor_middle_field (a : BitVec 5) (b : BitVec 2) (x m : BitVec 9) (c : BitVec 6) (d : BitVec 10) :
    a ++ b ++ (x ^^^ m) ++ c ++ d = (a ++ b ++ x ++ c ++ d) ^^^ (0#5 ++ 0#2 ++ m ++ 0#6 ++ 0#10) := by
  simp only [BitVec.xor_append, BitVec.xor_zero]

/-- DIT lies in the one field of CPSR between the two of ITSTATE, which a write of ITSTATE keeps (R32, R38). -/
theorem cpsrWithIT_xor_dit (c : Word) (it : BitVec 8) :
    cpsrWithIT (c ^^^ 0x00200000#32) it = cpsrWithIT c it ^^^ 0x00200000#32 := by
  have hmask : (0x00200000#32) = 0#5 ++ 0#2 ++ 0x020#9 ++ 0#6 ++ 0#10 := by decide
  have hhigh : (0x00200000#32).extractLsb' 27 5 = 0#5 := by decide
  have hmiddle : (0x00200000#32).extractLsb' 16 9 = 0x020#9 := by decide
  have hlow : (0x00200000#32).extractLsb' 0 10 = 0#10 := by decide
  rw [cpsrWithIT, BitVec.extractLsb'_xor, BitVec.extractLsb'_xor, BitVec.extractLsb'_xor, hhigh, hmiddle, hlow, cpsrWithIT, hmask,
    BitVec.xor_zero, BitVec.xor_zero]
  exact xor_middle_field _ _ _ _ _ _

theorem State.flipDIT_afterStep (s : State) (d : Vector DWord Config.numDRegs) :
    s.flipDIT.afterStep d = (s.afterStep d).flipDIT := by
  have hnext : s.flipDIT.nextIT = s.nextIT := by rw [State.nextIT, s.flipDIT_iset, s.flipDIT_itState, State.nextIT]
  have hcpsr : cpsrWithIT s.flipDIT.cpsr s.flipDIT.nextIT = (s.afterStep d).flipDIT.cpsr := by
    rw [hnext]; exact cpsrWithIT_xor_dit _ _
  rw [State.afterStep, hcpsr]
  rfl

theorem exec_flipDIT (i : Instr) (s : State) : exec i s.flipDIT = mapNext State.flipDIT (exec i s) :=
  exec_commutes s.checksAlike_flipDIT (instrVerdict_congr i s.checksAlike_flipDIT.inITBlock rfl rfl rfl) rfl s.flipDIT_afterStep

/-- Settles O52: step 0, the fetch and the match see the same, and the instruction commutes with the inversion. -/
theorem ditHasNoFunctionalEffect : Obligations.DitHasNoFunctionalEffect := by
  intro s
  have halike := s.checksAlike_flipDIT
  simp only [step, halike.preCheck, halike.fetch rfl, halike.iset]
  split
  · rfl
  · split
    · rfl
    · split
      · rfl
      · exact exec_flipDIT _ s

end Sys2Proof.Machine
end

section
/-! PROOFS. The enable check that the model takes from general knowledge (R172, R173; log 4). -/

namespace Sys2Proof.Machine

/-- A test that answers otherwise is not passed. -/
theorem ite_eq_some_iff_of_ne {p : Prop} [Decidable p] {x y : Option EnableAnswer} {answer : EnableAnswer} (hx : x ≠ some answer) :
    (if p then x else y) = some answer ↔ ¬p ∧ y = some answer := by
  by_cases hp : p <;> simp [hp, hx]

/-- The Hyp Trap controls, the last test of R173, ask for a trap outside Hyp mode alone. -/
theorem ite_trap_eq_hypTrap_iff {p : Prop} [Decidable p] {isHyp : Bool} :
    (if p then some (if isHyp then EnableAnswer.undefined else .hypTrap) else some .enabled) = some .hypTrap ↔
      p ∧ isHyp = false := by
  by_cases hp : p <;> cases isHyp <;> simp [hp]

theorem ite_trap_eq_enabled_iff {p : Prop} [Decidable p] {isHyp : Bool} :
    (if p then some (if isHyp then EnableAnswer.undefined else .hypTrap) else some .enabled) = some .enabled ↔ ¬p := by
  by_cases hp : p <;> cases isHyp <;> simp [hp]

section
variable {mon hyp : Bool} {cpacr nsacr hcptr fpexc : Word} {sec : SecurityState} {mode : BitVec 5} {advsimd : Bool}

/-- A trap is answered past the test of FPEXC.EN, by HCPTR, which is read in Non-secure state with Hyp mode present (R172, R173). -/
theorem architectedEnableCheck_hypTrap
    (h : architectedEnableCheck mon hyp cpacr nsacr hcptr fpexc sec mode advsimd = some .hypTrap) :
    fpexc.getLsbD 30 = true ∧ sec = .nonSecure ∧ mode ≠ Mode.hyp.bits ∧ hyp = true := by
  simp (disch := decide) only [architectedEnableCheck, ite_eq_some_iff_of_ne, ite_trap_eq_hypTrap_iff] at h
  obtain ⟨-, -, -, -, -, -, -, hen, hhcptr, hmode⟩ := h
  simp only [Bool.and_eq_true, beq_iff_eq] at hhcptr
  obtain ⟨⟨hhyp, hsec⟩, -⟩ := hhcptr
  exact ⟨by simpa using hen, hsec, by simpa using hmode, hhyp⟩

theorem architectedEnableCheck_enabled_fpexc
    (h : architectedEnableCheck mon hyp cpacr nsacr hcptr fpexc sec mode advsimd = some .enabled) :
    fpexc.getLsbD 30 = true := by
  simp (disch := decide) only [architectedEnableCheck, ite_eq_some_iff_of_ne, ite_trap_eq_enabled_iff] at h
  obtain ⟨-, -, -, -, -, -, -, hen, -⟩ := h
  simpa using hen

/-- A2 and T2 meet the tests of the Advanced SIMD rows but for the two that are theirs alone, ASEDIS and TASE (R173). -/
theorem architectedEnableCheck_enabled_scalar
    (h : architectedEnableCheck mon hyp cpacr nsacr hcptr fpexc sec mode true = some .enabled) :
    architectedEnableCheck mon hyp cpacr nsacr hcptr fpexc sec mode false = some .enabled := by
  simp (disch := decide) only [architectedEnableCheck, ite_eq_some_iff_of_ne, ite_trap_eq_enabled_iff] at h ⊢
  obtain ⟨hcp, hnsacr, hhcptr, -, hdisabled, huser, hreserved, hen, htrap⟩ := h
  refine ⟨hcp, hnsacr, hhcptr, by simp, hdisabled, huser, hreserved, hen, fun hscalar => htrap ?_⟩
  simp only [Bool.and_eq_true, Bool.or_eq_true] at hscalar ⊢
  obtain ⟨hread, ⟨hfalse, -⟩ | htcp⟩ := hscalar
  · cases hfalse
  · exact ⟨hread, .inr htcp⟩

end

/-- Settles O53, from the tests that an `Enabled` or a trap has passed. -/
theorem architectedEnableCheckIsConsistent : Obligations.ArchitectedEnableCheckIsConsistent := by
  intro mon hyp cpacr nsacr hcptr fpexc sec mode
  refine ⟨fun hen a => ⟨fun h => ?_, fun h => ?_⟩, fun a h => (architectedEnableCheck_hypTrap h).2,
    architectedEnableCheck_enabled_scalar⟩
  · cases hen.symm.trans (architectedEnableCheck_enabled_fpexc h)
  · obtain ⟨htrue, -⟩ := architectedEnableCheck_hypTrap h
    cases hen.symm.trans htrue

end Sys2Proof.Machine
end

section
/-! PROOFS. Program text placed at `pc` and fetched back: 20_memory.md on the next step (R51 to R53, R56, R65; log 22). -/

namespace Sys2Proof.Machine

/-- Both instruction sets lay a word out in four bytes (R65). -/
theorem layout_length (set : ISet) (w : Word) : (layout set w).length = 4 := by
  cases set <;> rfl

theorem decodeTableWord_eq_some {nbits w : Nat} {i : Instr} (h : decodeTableWord nbits w = some i) :
    ∃ rest, decode (tableISet (tableWord nbits w)) (layout (tableISet (tableWord nbits w)) (tableWord nbits w)) = .ok (i, rest) := by
  unfold decodeTableWord at h
  split at h
  case h_1 j rest hd =>
    cases h
    exact ⟨rest, hd⟩
  case h_2 => cases h

/-- T32 bytes that decode begin a 32-bit instruction: a 16-bit one is none of T1 to T5 (R65, R93). -/
theorem isLongT32_of_decode_ok {b0 b1 : Byte} {bytes rest : List Byte} {i : Instr}
    (h : decode .t32 (b0 :: b1 :: bytes) = .ok (i, rest)) : isLongT32 (b1 ++ b0) = true := by
  by_contra hshort
  cases h.symm.trans (decode_t32_short bytes (Bool.eq_false_of_not_eq_true hshort))

/-- Four bytes at `pc` that decode in the current instruction set are what the fetch answers: in T32 state it does not end after
the first halfword (R51, R52). -/
theorem State.fetch_of_decode_ok {s : State} {b0 b1 b2 b3 : Byte} {rest : List Byte} {i : Instr} (hp : s.preCheck = none)
    (h0 : s.mem.read s.pc.toNat = some b0) (h1 : s.mem.read (s.pc.toNat + 1) = some b1)
    (h2 : s.mem.read (s.pc.toNat + 2) = some b2) (h3 : s.mem.read (s.pc.toNat + 3) = some b3)
    (hd : decode s.iset [b0, b1, b2, b3] = .ok (i, rest)) : s.fetch = .ok [b0, b1, b2, b3] := by
  have hfour : s.fetchBytes [0, 1, 2, 3] = .ok [b0, b1, b2, b3] := State.fetchBytes_four hp h0 h1 h2 h3
  cases hi : s.iset with
  | a32 => exact (State.fetch_a32 hi).trans hfour
  | t32 => exact (State.fetch_t32_long hp hi h0 h1 (isLongT32_of_decode_ok (hi ▸ hd))).trans hfour

/-- Where step 0 stops nothing, four bytes placed at `pc` are read back from it: none of their addresses wraps (R29, R51). -/
theorem State.read_placed {s : State} {m : Memory} {b0 b1 b2 b3 : Byte} (hp : s.preCheck = none)
    (hmem : s.mem = placeBytes m s.pc [b0, b1, b2, b3]) :
    s.mem.read s.pc.toNat = some b0 ∧ s.mem.read (s.pc.toNat + 1) = some b1 ∧
      s.mem.read (s.pc.toNat + 2) = some b2 ∧ s.mem.read (s.pc.toNat + 3) = some b3 := by
  obtain ⟨-, hwrap, -⟩ := State.preCheck_none hp
  have hspace : s.pc.toNat + 4 ≤ 0xFFFFFFFF := by simpa [State.pcWraps] using hwrap
  rw [← State.fetch_address hp (by decide : 1 < 4), ← State.fetch_address hp (by decide : 2 < 4),
    ← State.fetch_address hp (by decide : 3 < 4), hmem]
  exact read_placeBytes m s.pc b0 b1 b2 b3 hspace

/-- Where step 0 stops nothing, four bytes placed at `pc` that decode are the instruction of the step (R51, R52). -/
theorem step_of_placed {s : State} {m : Memory} {bytes rest : List Byte} {i : Instr} (hp : s.preCheck = none)
    (hlength : bytes.length = 4) (hmem : s.mem = placeBytes m s.pc bytes) (hd : decode s.iset bytes = .ok (i, rest)) :
    step s = exec i s := by
  obtain ⟨b0, b1, b2, b3, rfl⟩ := List.length_eq_four.mp hlength
  obtain ⟨h0, h1, h2, h3⟩ := State.read_placed hp hmem
  exact step_of_decode_ok hp (State.fetch_of_decode_ok hp h0 h1 h2 h3 hd) hd

/-- Placing a word selects the instruction set it is read in (R31). -/
@[simp] theorem State.withFetchWord_iset (s : State) (nbits w : Nat) :
    (s.withFetchWord nbits w).iset = tableISet (tableWord nbits w) := by
  rw [State.iset, State.thumb, State.withFetchWord_cpsr, cpsrWithT_thumb]
  cases tableISet (tableWord nbits w) <;> rfl

/-- Settles O12: the bytes placed are the four of the word, in the instruction set that the placing selects. -/
theorem placedWordRunsNext : Obligations.PlacedWordRunsNext := by
  intro s nbits w i hdecode hp
  obtain ⟨rest, hd⟩ := decodeTableWord_eq_some hdecode
  refine step_of_placed hp (layout_length _ _) (s.withFetchWord_mem nbits w) (rest := rest) ?_
  rw [State.withFetchWord_iset]
  exact hd

end Sys2Proof.Machine
end

section
/-! PROOFS. What the decoder accepts and what the encoder writes, both ways: the formats, the ten patterns and the relation of the
two sets (R65 to R69, R71 to R81, R86). -/

namespace Sys2Proof

/-! Fields and bits of a word. -/

/-- A bit of a word, read from a field it lies in. -/
theorem getLsbD_of_field {w : Word} {start len : Nat} {c : BitVec len} (h : w.extractLsb' start len = c) {k : Nat} (hk : k < len) :
    w.getLsbD (start + k) = c.getLsbD k := by
  rw [← h]
  simp [hk]

/-- A field of one bit is that bit. -/
theorem extractLsb'_one_eq_one {n : Nat} (x : BitVec n) (k : Nat) : x.extractLsb' k 1 = 1#1 ↔ x.getLsbD k = true := by
  simp [BitVec.eq_of_getLsbD_eq_iff]

theorem extractLsb'_one_eq_zero {n : Nat} (x : BitVec n) (k : Nat) : x.extractLsb' k 1 = 0#1 ↔ x.getLsbD k = false := by
  simp [BitVec.eq_of_getLsbD_eq_iff]

/-- Two words are equal when they agree in fields that between them hold every bit. A field is its lowest bit and its width. -/
theorem eq_iff_fields {v w : Word} (fields : List (Nat × Nat))
    (hcover : ∀ k < 32, ∃ f ∈ fields, f.1 ≤ k ∧ k < f.1 + f.2) :
    v = w ↔ ∀ f ∈ fields, v.extractLsb' f.1 f.2 = w.extractLsb' f.1 f.2 := by
  constructor
  · rintro rfl _ _
    rfl
  · intro h
    apply BitVec.eq_of_getLsbD_eq
    intro k hk
    obtain ⟨f, hf, hle, hlt⟩ := hcover k hk
    have hbit := getLsbD_of_field (h f hf) (show k - f.1 < f.2 by omega)
    simpa [show f.1 + (k - f.1) = k by omega, show k - f.1 < f.2 by omega] using hbit

/-- The fields of the formats `VI-A` and `VI-T`, the top byte as one (R66, R67). -/
def simdFields : List (Nat × Nat) :=
  [(24, 8), (23, 1), (22, 1), (19, 3), (16, 3), (12, 4), (8, 4), (7, 1), (6, 1), (5, 1), (4, 1), (0, 4)]

/-- The fields of the formats `FI-A` and `FI-T`, the two `(0)` bits with the two fixed ones between them (R68, R69). -/
def fpFields : List (Nat × Nat) :=
  [(28, 4), (23, 5), (22, 1), (20, 2), (16, 4), (12, 4), (10, 2), (8, 2), (4, 4), (0, 4)]

theorem simdFields_cover : ∀ k < 32, ∃ f ∈ simdFields, f.1 ≤ k ∧ k < f.1 + f.2 := by decide

theorem fpFields_cover : ∀ k < 32, ∃ f ∈ fpFields, f.1 ≤ k ∧ k < f.1 + f.2 := by decide

/-! The formats, and what a word of each decodes to. -/

/-- The fixed bits of format `VI-A` (R66). -/
def IsSimdA32 (w : Word) : Prop := w.extractLsb' 25 7 = 0b1111001#7 ∧ isSimdLow w = true

/-- The fixed bits of format `VI-T` (R67). -/
def IsSimdT32 (w : Word) : Prop :=
  w.extractLsb' 29 3 = 0b111#3 ∧ w.extractLsb' 24 4 = 0b1111#4 ∧ isSimdLow w = true

/-- The fixed bits of format `FI-A`, with `cond` not `1111` (R68, R72). -/
def IsFpA32 (w : Word) : Prop := isFpLow w = true ∧ w.extractLsb' 28 4 ≠ 0b1111#4

/-- The fixed bits of format `FI-T` (R69). -/
def IsFpT32 (w : Word) : Prop := w.extractLsb' 28 4 = 0b1110#4 ∧ isFpLow w = true

/-- The kind that `op` and `cmode` of a word select. -/
def kindField (w : Word) : Except NotThis SimdKind := simdKind (w.extractLsb' 5 1) (w.extractLsb' 8 4)

/-- The destination that `Q`, `D` and `Vd` of a word name. -/
def destField (w : Word) : SimdDest := simdDest (w.extractLsb' 6 1) (dvdField w)

theorem isSimdLow_iff (w : Word) : isSimdLow w = true ↔
    w.extractLsb' 23 1 = 1#1 ∧ w.extractLsb' 19 3 = 0#3 ∧ w.extractLsb' 7 1 = 0#1 ∧ w.extractLsb' 4 1 = 1#1 := by
  simp only [isSimdLow, Bool.and_eq_true, beq_iff_eq, and_assoc]

theorem isFpLow_iff (w : Word) : isFpLow w = true ↔
    w.extractLsb' 23 5 = 0b11101#5 ∧ w.extractLsb' 20 2 = 0b11#2 ∧ w.extractLsb' 10 2 = 0b10#2 ∧ w.extractLsb' 6 1 = 0#1 ∧
      w.extractLsb' 4 1 = 0#1 := by
  simp only [isFpLow, Bool.and_eq_true, beq_iff_eq, and_assoc]

/-- Bit 26 tells the two A32 formats apart, bit 24 the two T32 formats (R66 to R69, R81). -/
theorem IsSimdA32.bit26 {w : Word} (h : IsSimdA32 w) : w.getLsbD 26 = false := getLsbD_of_field h.1 (k := 1) (by decide)

theorem IsSimdT32.bit24 {w : Word} (h : IsSimdT32 w) : w.getLsbD 24 = true := getLsbD_of_field h.2.1 (k := 0) (by decide)

theorem isFpLow_bit26 {w : Word} (h : isFpLow w = true) : w.getLsbD 26 = true :=
  getLsbD_of_field ((isFpLow_iff w).mp h).1 (k := 3) (by decide)

theorem isFpLow_bit24 {w : Word} (h : isFpLow w = true) : w.getLsbD 24 = false :=
  getLsbD_of_field ((isFpLow_iff w).mp h).1 (k := 1) (by decide)

theorem not_isSimdA32_of_isFpLow {w : Word} (h : isFpLow w = true) : ¬ IsSimdA32 w := fun hs => by
  cases hs.bit26.symm.trans (isFpLow_bit26 h)

theorem not_isSimdT32_of_isFpLow {w : Word} (h : isFpLow w = true) : ¬ IsSimdT32 w := fun hs => by
  cases hs.bit24.symm.trans (isFpLow_bit24 h)

theorem decodeA32_of_simd {w : Word} (h : IsSimdA32 w) :
    decodeA32 w = (kindField w).map fun k => simdA32 (simdImm8 (w.extractLsb' 24 1) w) k (destField w) := if_pos h

theorem decodeT32_of_simd {w : Word} (h : IsSimdT32 w) :
    decodeT32 w = (kindField w).map fun k => simdT32 (simdImm8 (w.extractLsb' 28 1) w) k (destField w) := if_pos h

theorem decodeA32_of_fp {w : Word} (h : IsFpA32 w) : decodeA32 w = .ok (fpA32 w) := by
  obtain ⟨hlow, hcond⟩ := h
  exact (if_neg (not_isSimdA32_of_isFpLow hlow)).trans ((if_pos hlow).trans (if_neg hcond))

theorem decodeT32_of_fp {w : Word} (h : IsFpT32 w) : decodeT32 w = .ok (fpT32 w) :=
  (if_neg (not_isSimdT32_of_isFpLow h.2)).trans (if_pos h)

theorem decodeA32_of_neither {w : Word} (hs : ¬ IsSimdA32 w) (hf : ¬ IsFpA32 w) : ∃ why, decodeA32 w = .error why := by
  by_cases hlow : isFpLow w = true
  · have hcond : w.extractLsb' 28 4 = 0b1111#4 := by_contra fun h => hf ⟨hlow, h⟩
    exact ⟨_, (if_neg hs).trans ((if_pos hlow).trans (if_pos hcond))⟩
  · exact ⟨_, (if_neg hs).trans (if_neg hlow)⟩

theorem decodeT32_of_neither {w : Word} (hs : ¬ IsSimdT32 w) (hf : ¬ IsFpT32 w) : decodeT32 w = .error .noPattern :=
  (if_neg hs).trans (if_neg hf)

theorem exceptMap_eq_ok {ε α β : Type} {f : α → β} {x : Except ε α} {b : β} :
    x.map f = .ok b ↔ ∃ a, x = .ok a ∧ b = f a := by
  cases x with
  | error e => simp [Except.map]
  | ok a => simp [Except.map, eq_comm]

/-- The A32 words that decode, and what to: the two formats, with `op` and `cmode` of one of the five patterns (R71 to R75). -/
theorem decodeA32_eq_ok_iff {w : Word} {i : Instr} : decodeA32 w = .ok i ↔
    (IsSimdA32 w ∧ ∃ k, kindField w = .ok k ∧ i = simdA32 (simdImm8 (w.extractLsb' 24 1) w) k (destField w)) ∨
      (IsFpA32 w ∧ i = fpA32 w) := by
  by_cases hs : IsSimdA32 w
  · have hf : ¬ IsFpA32 w := fun hf => not_isSimdA32_of_isFpLow hf.1 hs
    simp only [decodeA32_of_simd hs, exceptMap_eq_ok, hs, hf, true_and, false_and, or_false]
  · by_cases hf : IsFpA32 w
    · simp only [decodeA32_of_fp hf, hs, hf, true_and, false_and, false_or, Except.ok.injEq, eq_comm]
    · obtain ⟨why, herr⟩ := decodeA32_of_neither hs hf
      simp only [herr, hs, hf, false_and, or_false, reduceCtorEq]

/-- The T32 pairs that decode, and what to (R76 to R80). -/
theorem decodeT32_eq_ok_iff {w : Word} {i : Instr} : decodeT32 w = .ok i ↔
    (IsSimdT32 w ∧ ∃ k, kindField w = .ok k ∧ i = simdT32 (simdImm8 (w.extractLsb' 28 1) w) k (destField w)) ∨
      (IsFpT32 w ∧ i = fpT32 w) := by
  by_cases hs : IsSimdT32 w
  · have hf : ¬ IsFpT32 w := fun hf => not_isSimdT32_of_isFpLow hf.2 hs
    simp only [decodeT32_of_simd hs, exceptMap_eq_ok, hs, hf, true_and, false_and, or_false]
  · by_cases hf : IsFpT32 w
    · simp only [decodeT32_of_fp hf, hs, hf, true_and, false_and, false_or, Except.ok.injEq, eq_comm]
    · simp only [decodeT32_of_neither hs hf, hs, hf, false_and, or_false, reduceCtorEq]

end Sys2Proof
end

section
/-! PROOFS. The encoder undoes the decoder (R71 to R81). -/

namespace Sys2Proof

/-! What the encoder writes for the row of a kind and a destination. -/

/-- The `cmode` of a kind (R71, R73 to R75). -/
def SimdKind.cmodeBits : SimdKind → BitVec 4
  | .i32 c => 0#1 ++ c ++ 0#1
  | .i16 c => 0b10#2 ++ c ++ 0#1
  | .i32Ones c => 0b110#3 ++ c
  | .i8 => 0b1110#4
  | .f32 => 0b1111#4
  | .i64 => 0b1110#4

/-- The `op` of a kind (R71, R73 to R75). -/
def SimdKind.opBit : SimdKind → BitVec 1
  | .i64 => 1#1
  | _ => 0#1

/-- The `Q` of a destination (R86, R89). -/
def SimdDest.qBit : SimdDest → BitVec 1
  | .d _ => 0#1
  | .q _ | .undef _ => 1#1

/-- The `D:Vd` of a destination (R86, R89). -/
def SimdDest.dvdBits : SimdDest → BitVec 5
  | .d n => n
  | .q n => n ++ 0#1
  | .undef h => h ++ 1#1

theorem simdKind_fields {op : BitVec 1} {cmode : BitVec 4} {k : SimdKind} (h : simdKind op cmode = .ok k) :
    k.opBit = op ∧ k.cmodeBits = cmode := by
  have hall : ∀ op cmode, ∀ k ∈ (simdKind op cmode).toOption, k.opBit = op ∧ k.cmodeBits = cmode := by decide
  exact hall op cmode k (by rw [h]; rfl)

theorem simdDest_fields (q : BitVec 1) (dvd : BitVec 5) : (simdDest q dvd).qBit = q ∧ (simdDest q dvd).dvdBits = dvd := by
  revert q dvd
  decide

/-- The two spellings of the `cmode` of A4 and T4 with one free bit. -/
theorem cmode_i32Ones (c : BitVec 1) : 0b11#2 ++ (0#1 ++ c) = 0b110#3 ++ c := by
  revert c
  decide

theorem encodeWord_simdA32 (m : BitVec 8) (k : SimdKind) (t : SimdDest) :
    encodeWord (simdA32 m k t) = simdWordA32 k.cmodeBits t.qBit k.opBit t.dvdBits m := by
  cases k with
  | i32Ones c =>
    cases t with
    | undef h => exact congrArg (simdWordA32 · 1#1 0#1 (h ++ 1#1) m) (cmode_i32Ones c)
    | d | q => rfl
  | i32 | i16 | i8 | f32 | i64 => cases t <;> rfl

theorem encodeWord_simdT32 (m : BitVec 8) (k : SimdKind) (t : SimdDest) :
    encodeWord (simdT32 m k t) = simdWordT32 k.cmodeBits t.qBit k.opBit t.dvdBits m := by
  cases k with
  | i32Ones c =>
    cases t with
    | undef h => exact congrArg (simdWordT32 · 1#1 0#1 (h ++ 1#1) m) (cmode_i32Ones c)
    | d | q => rfl
  | i32 | i16 | i8 | f32 | i64 => cases t <;> rfl

/-! A word is put together from its fields. -/

theorem dvdField_fields (w : Word) :
    (dvdField w).extractLsb' 4 1 = w.extractLsb' 22 1 ∧ (dvdField w).extractLsb' 0 4 = w.extractLsb' 12 4 :=
  ⟨BitVec.extractLsb'_append_eq_left, BitVec.extractLsb'_append_eq_right⟩

theorem vddField_fields (w : Word) :
    (vddField w).extractLsb' 0 1 = w.extractLsb' 22 1 ∧ (vddField w).extractLsb' 1 4 = w.extractLsb' 12 4 :=
  ⟨BitVec.extractLsb'_append_eq_right, BitVec.extractLsb'_append_eq_left⟩

theorem simdImm8_fields (i : BitVec 1) (w : Word) :
    (simdImm8 i w).extractLsb' 7 1 = i ∧ (simdImm8 i w).extractLsb' 4 3 = w.extractLsb' 16 3 ∧
      (simdImm8 i w).extractLsb' 0 4 = w.extractLsb' 0 4 := by
  refine ⟨?_, ?_, BitVec.extractLsb'_append_eq_right⟩
  · rw [simdImm8, extractLsb'_append_high _ _ _ _ (by decide)]
    exact BitVec.extractLsb'_append_eq_left
  · rw [simdImm8, extractLsb'_append_high _ _ _ _ (by decide)]
    exact BitVec.extractLsb'_append_eq_right

theorem fpImm8_fields (w : Word) :
    (fpImm8 w).extractLsb' 4 4 = w.extractLsb' 16 4 ∧ (fpImm8 w).extractLsb' 0 4 = w.extractLsb' 0 4 :=
  ⟨BitVec.extractLsb'_append_eq_left, BitVec.extractLsb'_append_eq_right⟩

/-- A word with the fixed bits of `VI-A` and `VI-T` is its top byte over its fields (R66, R67). -/
theorem eq_append_simdLowBits {w : Word} (i : BitVec 1) (h : isSimdLow w = true) :
    w = w.extractLsb' 24 8 ++ simdLowBits (w.extractLsb' 8 4) (w.extractLsb' 6 1) (w.extractLsb' 5 1) (dvdField w) (simdImm8 i w) := by
  obtain ⟨h23, h19, h7, h4⟩ := (isSimdLow_iff w).mp h
  obtain ⟨hd, hvd⟩ := dvdField_fields w
  obtain ⟨-, himm3, himm4⟩ := simdImm8_fields i w
  obtain ⟨e24, e23, e22, e19, e16, e12, e8, e7, e6, e5, e4, e0⟩ := simdLowBits_fields (w.extractLsb' 24 8) (w.extractLsb' 8 4)
    (w.extractLsb' 6 1) (w.extractLsb' 5 1) (dvdField w) (simdImm8 i w) _ rfl
  rw [eq_iff_fields simdFields simdFields_cover]
  simp only [simdFields, List.forall_mem_cons, e24, e23, e22, e19, e16, e12, e8, e7, e6, e5, e4, e0, h23, h19, h7, h4, hd, hvd,
    himm3, himm4, List.not_mem_nil, false_implies, implies_true, and_self]

/-- A word with the fixed bits of `FI-A` and `FI-T` and clear `(0)` bits is its fields (R68, R69). -/
theorem eq_fpWord {w : Word} (hlow : isFpLow w = true) (hsbz : sbzField w = .clear) :
    w = fpWord (w.extractLsb' 28 4) (w.extractLsb' 8 2) (w.extractLsb' 22 1) (w.extractLsb' 12 4) (fpImm8 w) := by
  obtain ⟨h23, h20, h10, h6, h4⟩ := (isFpLow_iff w).mp hlow
  obtain ⟨h7, h5⟩ := SbzBits.mk.inj hsbz
  have hzero : w.extractLsb' 4 4 = 0#4 := by
    rw [← extractLsb'_join w 4 3 1, ← extractLsb'_join w 5 2 1, ← extractLsb'_join w 6 1 1, h4, h6,
      (extractLsb'_one_eq_zero w 5).mpr h5, (extractLsb'_one_eq_zero w 7).mpr h7]
    rfl
  obtain ⟨himmH, himmL⟩ := fpImm8_fields w
  obtain ⟨e28, e23, e22, e20, e16, e12, e10, e8, e4, e0⟩ := fpWord_fields (w.extractLsb' 28 4) (w.extractLsb' 8 2)
    (w.extractLsb' 22 1) (w.extractLsb' 12 4) (fpImm8 w) _ rfl
  rw [eq_iff_fields fpFields fpFields_cover]
  simp only [fpFields, List.forall_mem_cons, e28, e23, e22, e20, e16, e12, e10, e8, e4, e0, h23, h20, h10, hzero, himmH, himmL,
    List.not_mem_nil, false_implies, implies_true, and_self]

/-! The four rows that `size` selects (R72, R77). -/

theorem fpA32_cases (w : Word) :
    (w.extractLsb' 8 2 = 0b00#2 ∧ fpA32 w = .undefinedA2 (Cond.ofBits (w.extractLsb' 28 4)) (dvdField w) (fpImm8 w) (sbzField w)) ∨
      (w.extractLsb' 8 2 = 0b01#2 ∧ fpA32 w = .vmovF16A2 (Cond.ofBits (w.extractLsb' 28 4)) (vddField w) (fpImm8 w) (sbzField w)) ∨
      (w.extractLsb' 8 2 = 0b10#2 ∧ fpA32 w = .vmovF32A2 (Cond.ofBits (w.extractLsb' 28 4)) (vddField w) (fpImm8 w) (sbzField w)) ∨
      (w.extractLsb' 8 2 = 0b11#2 ∧
        fpA32 w = .vmovF64A2 (Cond.ofBits (w.extractLsb' 28 4)) (dvdField w) (fpImm8 w) (sbzField w)) := by
  obtain h | h | h | h := cases_bv2 (w.extractLsb' 8 2)
  · exact .inl ⟨h, by rw [fpA32, h]; rfl⟩
  · exact .inr (.inl ⟨h, by rw [fpA32, h]; rfl⟩)
  · exact .inr (.inr (.inl ⟨h, by rw [fpA32, h]; rfl⟩))
  · exact .inr (.inr (.inr ⟨h, by rw [fpA32, h]; rfl⟩))

theorem fpT32_cases (w : Word) :
    (w.extractLsb' 8 2 = 0b00#2 ∧ fpT32 w = .undefinedT2 (dvdField w) (fpImm8 w) (sbzField w)) ∨
      (w.extractLsb' 8 2 = 0b01#2 ∧ fpT32 w = .vmovF16T2 (vddField w) (fpImm8 w) (sbzField w)) ∨
      (w.extractLsb' 8 2 = 0b10#2 ∧ fpT32 w = .vmovF32T2 (vddField w) (fpImm8 w) (sbzField w)) ∨
      (w.extractLsb' 8 2 = 0b11#2 ∧ fpT32 w = .vmovF64T2 (dvdField w) (fpImm8 w) (sbzField w)) := by
  obtain h | h | h | h := cases_bv2 (w.extractLsb' 8 2)
  · exact .inl ⟨h, by rw [fpT32, h]; rfl⟩
  · exact .inr (.inl ⟨h, by rw [fpT32, h]; rfl⟩)
  · exact .inr (.inr (.inl ⟨h, by rw [fpT32, h]; rfl⟩))
  · exact .inr (.inr (.inr ⟨h, by rw [fpT32, h]; rfl⟩))

theorem encodeWord_fpA32 (w : Word) : encodeWord (fpA32 w) =
    fpWord (w.extractLsb' 28 4) (w.extractLsb' 8 2) (w.extractLsb' 22 1) (w.extractLsb' 12 4) (fpImm8 w) := by
  obtain ⟨hd, hvd⟩ := dvdField_fields w
  obtain ⟨hd', hvd'⟩ := vddField_fields w
  obtain ⟨h, hi⟩ | ⟨h, hi⟩ | ⟨h, hi⟩ | ⟨h, hi⟩ := fpA32_cases w <;>
    simp only [hi, h, encodeWord, Cond.toBits_ofBits, hd, hvd, hd', hvd']

theorem encodeWord_fpT32 (w : Word) : encodeWord (fpT32 w) =
    fpWord 0b1110#4 (w.extractLsb' 8 2) (w.extractLsb' 22 1) (w.extractLsb' 12 4) (fpImm8 w) := by
  obtain ⟨hd, hvd⟩ := dvdField_fields w
  obtain ⟨hd', hvd'⟩ := vddField_fields w
  obtain ⟨h, hi⟩ | ⟨h, hi⟩ | ⟨h, hi⟩ | ⟨h, hi⟩ := fpT32_cases w <;>
    simp only [hi, h, encodeWord, hd, hvd, hd', hvd']

theorem fpA32_iset (w : Word) : (fpA32 w).iset = .a32 := by
  obtain ⟨-, hi⟩ | ⟨-, hi⟩ | ⟨-, hi⟩ | ⟨-, hi⟩ := fpA32_cases w <;> rw [hi] <;> rfl

theorem fpT32_iset (w : Word) : (fpT32 w).iset = .t32 := by
  obtain ⟨-, hi⟩ | ⟨-, hi⟩ | ⟨-, hi⟩ | ⟨-, hi⟩ := fpT32_cases w <;> rw [hi] <;> rfl

/-- What well-formedness adds to a decoded word of A2 and T2: clear `(0)` bits (R91). -/
theorem sbzField_of_fpA32 {w : Word} (h : (fpA32 w).wellFormed = true) : sbzField w = .clear := by
  apply SbzBits.eq_clear
  obtain ⟨-, hi⟩ | ⟨-, hi⟩ | ⟨-, hi⟩ | ⟨-, hi⟩ := fpA32_cases w <;>
    · rw [hi, Instr.wellFormed, Bool.and_eq_true] at h
      exact h.2

theorem sbzField_of_fpT32 {w : Word} (h : (fpT32 w).wellFormed = true) : sbzField w = .clear := by
  apply SbzBits.eq_clear
  obtain ⟨-, hi⟩ | ⟨-, hi⟩ | ⟨-, hi⟩ | ⟨-, hi⟩ := fpT32_cases w <;>
    · rw [hi] at h
      exact h

theorem simdA32_iset (m : BitVec 8) (k : SimdKind) (t : SimdDest) : (simdA32 m k t).iset = .a32 := by
  cases k <;> cases t <;> rfl

theorem simdT32_iset (m : BitVec 8) (k : SimdKind) (t : SimdDest) : (simdT32 m k t).iset = .t32 := by
  cases k <;> cases t <;> rfl

/-! The encoding of what a word decodes to is the word. -/

theorem encodeWord_of_simdA32 {w : Word} {k : SimdKind} (hw : IsSimdA32 w) (hk : kindField w = .ok k) :
    encodeWord (simdA32 (simdImm8 (w.extractLsb' 24 1) w) k (destField w)) = w := by
  obtain ⟨htop, hlow⟩ := hw
  obtain ⟨hop, hcmode⟩ := simdKind_fields hk
  obtain ⟨hq, hdvd⟩ := simdDest_fields (w.extractLsb' 6 1) (dvdField w)
  obtain ⟨hi, -⟩ := simdImm8_fields (w.extractLsb' 24 1) w
  have hbyte : w.extractLsb' 24 8 = 0b1111001#7 ++ w.extractLsb' 24 1 := by
    rw [← htop]
    exact (extractLsb'_join w 24 7 1).symm
  conv_rhs => rw [eq_append_simdLowBits (w.extractLsb' 24 1) hlow, hbyte]
  rw [encodeWord_simdA32, destField, hop, hcmode, hq, hdvd, simdWordA32, hi]

theorem encodeWord_of_simdT32 {w : Word} {k : SimdKind} (hw : IsSimdT32 w) (hk : kindField w = .ok k) :
    encodeWord (simdT32 (simdImm8 (w.extractLsb' 28 1) w) k (destField w)) = w := by
  obtain ⟨htop, hlast, hlow⟩ := hw
  obtain ⟨hop, hcmode⟩ := simdKind_fields hk
  obtain ⟨hq, hdvd⟩ := simdDest_fields (w.extractLsb' 6 1) (dvdField w)
  obtain ⟨hi, -⟩ := simdImm8_fields (w.extractLsb' 28 1) w
  have hbyte : w.extractLsb' 24 8 = 0b111#3 ++ w.extractLsb' 28 1 ++ 0b1111#4 := by
    rw [← htop, ← hlast, extractLsb'_join w 28 3 1]
    exact (extractLsb'_join w 24 4 4).symm
  conv_rhs => rw [eq_append_simdLowBits (w.extractLsb' 28 1) hlow, hbyte]
  rw [encodeWord_simdT32, destField, hop, hcmode, hq, hdvd, simdWordT32, hi]

theorem encodeWord_of_decodeA32 {w : Word} {i : Instr} (h : decodeA32 w = .ok i) (hwf : i.wellFormed = true) :
    encodeWord i = w ∧ i.iset = .a32 := by
  obtain ⟨hw, k, hk, rfl⟩ | ⟨⟨hlow, -⟩, rfl⟩ := decodeA32_eq_ok_iff.mp h
  · exact ⟨encodeWord_of_simdA32 hw hk, simdA32_iset _ _ _⟩
  · exact ⟨(encodeWord_fpA32 w).trans (eq_fpWord hlow (sbzField_of_fpA32 hwf)).symm, fpA32_iset w⟩

theorem encodeWord_of_decodeT32 {w : Word} {i : Instr} (h : decodeT32 w = .ok i) (hwf : i.wellFormed = true) :
    encodeWord i = w ∧ i.iset = .t32 := by
  obtain ⟨hw, k, hk, rfl⟩ | ⟨⟨htop, hlow⟩, rfl⟩ := decodeT32_eq_ok_iff.mp h
  · exact ⟨encodeWord_of_simdT32 hw hk, simdT32_iset _ _ _⟩
  · rw [encodeWord_fpT32, ← htop]
    exact ⟨(eq_fpWord hlow (sbzField_of_fpT32 hwf)).symm, fpT32_iset w⟩

/-- Settles O2, format by format: the fields that the decoder reads, with the fixed bits, are the whole word. -/
theorem encodeOfDecodeGivesTheWord : Obligations.EncodeOfDecodeGivesTheWord :=
  ⟨fun _ _ => encodeWord_of_decodeA32, fun _ _ => encodeWord_of_decodeT32⟩

theorem roundTrip (i : Instr) : Laws.RoundTrip.Statement i := by
  cases i with
  | vmovI32A1D c d m => exact Laws.RoundTrip.vmovI32A1D c d m
  | vmovI32A1Q c q m => exact Laws.RoundTrip.vmovI32A1Q c q m
  | vmovI16A3D c d m => exact Laws.RoundTrip.vmovI16A3D c d m
  | vmovI16A3Q c q m => exact Laws.RoundTrip.vmovI16A3Q c q m
  | vmovI32A4D c d m => exact Laws.RoundTrip.vmovI32A4D c d m
  | vmovI32A4Q c q m => exact Laws.RoundTrip.vmovI32A4Q c q m
  | vmovI8A4D d m => exact Laws.RoundTrip.vmovI8A4D d m
  | vmovI8A4Q q m => exact Laws.RoundTrip.vmovI8A4Q q m
  | vmovF32A4D d m => exact Laws.RoundTrip.vmovF32A4D d m
  | vmovF32A4Q q m => exact Laws.RoundTrip.vmovF32A4Q q m
  | vmovI64A5D d m => exact Laws.RoundTrip.vmovI64A5D d m
  | vmovI64A5Q q m => exact Laws.RoundTrip.vmovI64A5Q q m
  | undefinedA1 c h m => exact Laws.RoundTrip.undefinedA1 c h m
  | undefinedA3 c h m => exact Laws.RoundTrip.undefinedA3 c h m
  | undefinedA4 c h m => exact Laws.RoundTrip.undefinedA4 c h m
  | undefinedA5 h m => exact Laws.RoundTrip.undefinedA5 h m
  | vmovF16A2 c d m z => exact Laws.RoundTrip.vmovF16A2 c d m z
  | vmovF32A2 c d m z => exact Laws.RoundTrip.vmovF32A2 c d m z
  | vmovF64A2 c d m z => exact Laws.RoundTrip.vmovF64A2 c d m z
  | undefinedA2 c d m z => exact Laws.RoundTrip.undefinedA2 c d m z
  | vmovI32T1D c d m => exact Laws.RoundTrip.vmovI32T1D c d m
  | vmovI32T1Q c q m => exact Laws.RoundTrip.vmovI32T1Q c q m
  | vmovI16T3D c d m => exact Laws.RoundTrip.vmovI16T3D c d m
  | vmovI16T3Q c q m => exact Laws.RoundTrip.vmovI16T3Q c q m
  | vmovI32T4D c d m => exact Laws.RoundTrip.vmovI32T4D c d m
  | vmovI32T4Q c q m => exact Laws.RoundTrip.vmovI32T4Q c q m
  | vmovI8T4D d m => exact Laws.RoundTrip.vmovI8T4D d m
  | vmovI8T4Q q m => exact Laws.RoundTrip.vmovI8T4Q q m
  | vmovF32T4D d m => exact Laws.RoundTrip.vmovF32T4D d m
  | vmovF32T4Q q m => exact Laws.RoundTrip.vmovF32T4Q q m
  | vmovI64T5D d m => exact Laws.RoundTrip.vmovI64T5D d m
  | vmovI64T5Q q m => exact Laws.RoundTrip.vmovI64T5Q q m
  | undefinedT1 c h m => exact Laws.RoundTrip.undefinedT1 c h m
  | undefinedT3 c h m => exact Laws.RoundTrip.undefinedT3 c h m
  | undefinedT4 c h m => exact Laws.RoundTrip.undefinedT4 c h m
  | undefinedT5 h m => exact Laws.RoundTrip.undefinedT5 h m
  | vmovF16T2 d m z => exact Laws.RoundTrip.vmovF16T2 d m z
  | vmovF32T2 d m z => exact Laws.RoundTrip.vmovF32T2 d m z
  | vmovF64T2 d m z => exact Laws.RoundTrip.vmovF64T2 d m z
  | undefinedT2 d m z => exact Laws.RoundTrip.undefinedT2 d m z

/-- Settles O1, by the round trip of each row. -/
theorem decodeOfEncodeGivesTheInstruction : Obligations.DecodeOfEncodeGivesTheInstruction := roundTrip

end Sys2Proof
end

section
/-! PROOFS. The ten mask and match pairs (R71 to R80). -/

namespace Sys2Proof

/-- Bits 23:0 of the mask of an Advanced SIMD pattern: the fixed bits, `op`, and the bits of `cmode` that the pattern fixes. -/
def simdMaskLow (cmode : BitVec 4) : BitVec 24 := 0b101110000000#12 ++ cmode ++ 0b10110000#8

theorem simdMaskLow_fields (x : BitVec 8) (cmode : BitVec 4) (m : Word) (h : m = x ++ simdMaskLow cmode) :
    m.extractLsb' 24 8 = x ∧ m.extractLsb' 23 1 = 1#1 ∧ m.extractLsb' 22 1 = 0#1 ∧ m.extractLsb' 19 3 = 0b111#3 ∧
      m.extractLsb' 16 3 = 0#3 ∧ m.extractLsb' 12 4 = 0#4 ∧ m.extractLsb' 8 4 = cmode ∧ m.extractLsb' 7 1 = 1#1 ∧
      m.extractLsb' 6 1 = 0#1 ∧ m.extractLsb' 5 1 = 1#1 ∧ m.extractLsb' 4 1 = 1#1 ∧ m.extractLsb' 0 4 = 0#4 := by
  have hlow : simdMaskLow cmode = 0b101110000000#12 ++ cmode ++ 0b10110000#8 := rfl
  subst h
  simp (disch := decide) only [hlow, extractLsb'_append_high, extractLsb'_append_low]
  simp

theorem and_ones {n : Nat} (x y : BitVec n) (h : y = BitVec.allOnes n) : x &&& y = x := by
  rw [h, BitVec.and_allOnes]

/-- A word fits a pattern of the Advanced SIMD formats when its top byte fits, its fixed bits are those of the formats, and its
`cmode` and `op` are as the pattern says. -/
theorem and_eq_simd_iff (w : Word) (topMask top : BitVec 8) (cmodeMask cmode : BitVec 4) (op : BitVec 1) :
    w &&& (topMask ++ simdMaskLow cmodeMask) = top ++ simdLowBits cmode 0#1 op 0#5 0#8 ↔
      w.extractLsb' 24 8 &&& topMask = top ∧ isSimdLow w = true ∧ w.extractLsb' 8 4 &&& cmodeMask = cmode ∧
        w.extractLsb' 5 1 = op := by
  obtain ⟨m24, m23, m22, m19, m16, m12, m8, m7, m6, m5, m4, m0⟩ := simdMaskLow_fields topMask cmodeMask _ rfl
  obtain ⟨v24, v23, v22, v19, v16, v12, v8, v7, v6, v5, v4, v0⟩ := simdLowBits_fields top cmode 0#1 op 0#5 0#8 _ rfl
  rw [eq_iff_fields simdFields simdFields_cover, isSimdLow_iff]
  simp only [simdFields, List.forall_mem_cons, BitVec.extractLsb'_and, m24, m23, m22, m19, m16, m12, m8, m7, m6, m5, m4, m0, v24,
    v23, v22, v19, v16, v12, v8, v7, v6, v5, v4, v0, BitVec.and_zero, and_ones _ 1#1 rfl, and_ones _ 0b111#3 rfl,
    BitVec.reduceExtractLsb', List.not_mem_nil, false_implies, implies_true, true_and, and_true]
  tauto

/-- A word fits a pattern of the floating-point formats when its top four bits fit and its fixed bits are those of the formats. -/
theorem and_eq_fp_iff (w : Word) (topMask top : BitVec 4) :
    w &&& (topMask ++ 0xFB00C50#28) = top ++ 0xEB00800#28 ↔ w.extractLsb' 28 4 &&& topMask = top ∧ isFpLow w = true := by
  have hnibble : w.extractLsb' 4 4 &&& 0b0101#4 = 0#4 ↔ w.extractLsb' 6 1 = 0#1 ∧ w.extractLsb' 4 1 = 0#1 := by
    rw [← extractLsb'_of_field w 4 4 2 1 (by decide), ← extractLsb'_of_field w 4 4 0 1 (by decide)]
    generalize w.extractLsb' 4 4 = x
    revert x
    decide
  rw [eq_iff_fields fpFields fpFields_cover, isFpLow_iff]
  simp (disch := decide) only [fpFields, List.forall_mem_cons, BitVec.extractLsb'_and, extractLsb'_append_low,
    extractLsb'_append_high, Nat.sub_self, extractLsb'_whole, BitVec.reduceExtractLsb', BitVec.and_zero, and_ones _ 0b11#2 rfl,
    and_ones _ 0b11111#5 rfl, hnibble, List.not_mem_nil, false_implies, implies_true, true_and, and_true]

/-! The patterns of `cmode` and `op`, and the decoder's reading of them. -/

theorem exists_eq_ok_iff {ε α : Type} (x : Except ε α) : (∃ a, x = .ok a) ↔ x.toBool = true := by
  cases x <;> simp [Except.toBool]

/-- The decode text accepts the `cmode` and `op` of A1, A3, A4 and A5 and no others (R71, R73 to R75, R88). -/
theorem exists_simdKind_iff (op : BitVec 1) (cmode : BitVec 4) : (∃ k, simdKind op cmode = .ok k) ↔
    (cmode &&& 0b1001#4 = 0#4 ∧ op = 0#1) ∨ (cmode &&& 0b1101#4 = 0b1000#4 ∧ op = 0#1) ∨
      (cmode &&& 0b1100#4 = 0b1100#4 ∧ op = 0#1) ∨ (cmode &&& 0b1111#4 = 0b1110#4 ∧ op = 1#1) := by
  rw [exists_eq_ok_iff]
  revert op cmode
  decide

theorem exists_decodeA32_iff (w : Word) :
    (∃ i, decodeA32 w = .ok i) ↔ (IsSimdA32 w ∧ ∃ k, kindField w = .ok k) ∨ IsFpA32 w := by
  constructor
  · rintro ⟨i, h⟩
    obtain ⟨hs, k, hk, -⟩ | ⟨hf, -⟩ := decodeA32_eq_ok_iff.mp h
    · exact .inl ⟨hs, k, hk⟩
    · exact .inr hf
  · rintro (⟨hs, k, hk⟩ | hf)
    · exact ⟨_, decodeA32_eq_ok_iff.mpr (.inl ⟨hs, k, hk, rfl⟩)⟩
    · exact ⟨_, decodeA32_of_fp hf⟩

theorem exists_decodeT32_iff (w : Word) :
    (∃ i, decodeT32 w = .ok i) ↔ (IsSimdT32 w ∧ ∃ k, kindField w = .ok k) ∨ IsFpT32 w := by
  constructor
  · rintro ⟨i, h⟩
    obtain ⟨hs, k, hk, -⟩ | ⟨hf, -⟩ := decodeT32_eq_ok_iff.mp h
    · exact .inl ⟨hs, k, hk⟩
    · exact .inr hf
  · rintro (⟨hs, k, hk⟩ | hf)
    · exact ⟨_, decodeT32_eq_ok_iff.mpr (.inl ⟨hs, k, hk, rfl⟩)⟩
    · exact ⟨_, decodeT32_of_fp hf⟩

theorem topByteA32_iff (w : Word) : w.extractLsb' 24 8 &&& 0xFE#8 = 0xF2#8 ↔ w.extractLsb' 25 7 = 0b1111001#7 := by
  rw [← extractLsb'_of_field w 24 8 1 7 (by decide)]
  generalize w.extractLsb' 24 8 = x
  revert x
  decide

theorem topByteT32_iff (w : Word) :
    w.extractLsb' 24 8 &&& 0xEF#8 = 0xEF#8 ↔ w.extractLsb' 29 3 = 0b111#3 ∧ w.extractLsb' 24 4 = 0b1111#4 := by
  rw [← extractLsb'_of_field w 24 8 5 3 (by decide), ← extractLsb'_of_field w 24 8 0 4 (by decide)]
  generalize w.extractLsb' 24 8 = x
  revert x
  decide

/-- A pattern of A1, A3, A4 or A5: the format, and the pattern's `cmode` and `op`. -/
theorem and_eq_simdA32_iff (w : Word) (cmodeMask cmode : BitVec 4) (op : BitVec 1) :
    w &&& (0xFE#8 ++ simdMaskLow cmodeMask) = 0xF2#8 ++ simdLowBits cmode 0#1 op 0#5 0#8 ↔
      IsSimdA32 w ∧ w.extractLsb' 8 4 &&& cmodeMask = cmode ∧ w.extractLsb' 5 1 = op := by
  rw [and_eq_simd_iff, topByteA32_iff, IsSimdA32, and_assoc]

/-- A pattern of T1, T3, T4 or T5. -/
theorem and_eq_simdT32_iff (w : Word) (cmodeMask cmode : BitVec 4) (op : BitVec 1) :
    w &&& (0xEF#8 ++ simdMaskLow cmodeMask) = 0xEF#8 ++ simdLowBits cmode 0#1 op 0#5 0#8 ↔
      IsSimdT32 w ∧ w.extractLsb' 8 4 &&& cmodeMask = cmode ∧ w.extractLsb' 5 1 = op := by
  rw [and_eq_simd_iff, topByteT32_iff, IsSimdT32]
  simp only [and_assoc]

theorem and_eq_fpA32_iff (w : Word) : w &&& 0x0FB00C50#32 = 0x0EB00800#32 ↔ isFpLow w = true := by
  have h := and_eq_fp_iff w 0#4 0#4
  simpa using h

theorem and_eq_fpT32_iff (w : Word) : w &&& 0xFFB00C50#32 = 0xEEB00800#32 ↔ IsFpT32 w := by
  have h := and_eq_fp_iff w 0b1111#4 0b1110#4
  rwa [and_ones _ 0b1111#4 rfl] at h

/-- Settles O3: four of the pairs are the format `VI-A` with one of the four patterns of `cmode` and `op`, the fifth is `FI-A`. -/
theorem a32WordsAcceptedAreTheFivePatterns : Obligations.A32WordsAcceptedAreTheFivePatterns := by
  intro w
  have hA1 : w &&& 0xFEB809B0#32 = 0xF2800010#32 ↔ _ := and_eq_simdA32_iff w 0b1001#4 0#4 0#1
  have hA3 : w &&& 0xFEB80DB0#32 = 0xF2800810#32 ↔ _ := and_eq_simdA32_iff w 0b1101#4 0b1000#4 0#1
  have hA4 : w &&& 0xFEB80CB0#32 = 0xF2800C10#32 ↔ _ := and_eq_simdA32_iff w 0b1100#4 0b1100#4 0#1
  have hA5 : w &&& 0xFEB80FB0#32 = 0xF2800E30#32 ↔ _ := and_eq_simdA32_iff w 0b1111#4 0b1110#4 1#1
  rw [exists_decodeA32_iff, kindField, exists_simdKind_iff, hA1, hA3, hA4, hA5, and_eq_fpA32_iff, IsFpA32, and_or_left,
    and_or_left, and_or_left, or_assoc]
  exact or_congr_right or_comm

/-- Settles O4, as O3 with the formats `VI-T` and `FI-T`. -/
theorem t32PairsAcceptedAreTheFivePatterns : Obligations.T32PairsAcceptedAreTheFivePatterns := by
  intro w
  have hT1 : w &&& 0xEFB809B0#32 = 0xEF800010#32 ↔ _ := and_eq_simdT32_iff w 0b1001#4 0#4 0#1
  have hT3 : w &&& 0xEFB80DB0#32 = 0xEF800810#32 ↔ _ := and_eq_simdT32_iff w 0b1101#4 0b1000#4 0#1
  have hT4 : w &&& 0xEFB80CB0#32 = 0xEF800C10#32 ↔ _ := and_eq_simdT32_iff w 0b1100#4 0b1100#4 0#1
  have hT5 : w &&& 0xEFB80FB0#32 = 0xEF800E30#32 ↔ _ := and_eq_simdT32_iff w 0b1111#4 0b1110#4 1#1
  rw [exists_decodeT32_iff, kindField, exists_simdKind_iff, hT1, hT3, hT4, hT5, and_eq_fpT32_iff, and_or_left,
    and_or_left, and_or_left, or_assoc]
  exact or_congr_right or_comm

end Sys2Proof
end

section
/-! PROOFS. Words assembled by shifts, the T32 twins of A32 words, and the bytes of an instruction (R65, R72, R81, R151 to R153). -/

namespace Sys2Proof

/-! A field shifted into its place. -/

theorem extractLsb'_shifted_same {n : Nat} (x : BitVec n) (k : Nat) (h : k + n ≤ 32) :
    (x.setWidth 32 <<< k).extractLsb' k n = x := by
  ext j hj
  simp [show k + j < 32 by omega, BitVec.getLsbD_eq_getElem hj]

theorem extractLsb'_shifted_other {n : Nat} (x : BitVec n) (k start len : Nat) (h : start + len ≤ k ∨ k + n ≤ start) :
    (x.setWidth 32 <<< k).extractLsb' start len = 0#len := by
  ext j hj
  rcases h with h | h
  · simp [show start + j < k by omega]
  · simp [BitVec.getLsbD_of_ge x (start + j - k) (by omega)]

/-- A word of the floating-point formats is the pattern with the fields shifted into place (R72). -/
theorem fpWord_eq_or (top : BitVec 4) (size : BitVec 2) (dbit : BitVec 1) (vd h l : BitVec 4) :
    fpWord top size dbit vd (h ++ l) = 0x0EB00800#32 ||| (size.setWidth 32 <<< 8) |||
      ((top.setWidth 32 <<< 28) ||| (dbit.setWidth 32 <<< 22) ||| (h.setWidth 32 <<< 16) ||| (vd.setWidth 32 <<< 12) |||
        l.setWidth 32) := by
  obtain ⟨e28, e23, e22, e20, e16, e12, e10, e8, e4, e0⟩ := fpWord_fields top size dbit vd (h ++ l) _ rfl
  have hl : l.setWidth 32 = l.setWidth 32 <<< 0 := (BitVec.shiftLeft_zero _).symm
  rw [hl, eq_iff_fields fpFields fpFields_cover]
  simp (disch := decide) only [fpFields, List.forall_mem_cons, BitVec.extractLsb'_or, extractLsb'_shifted_same,
    extractLsb'_shifted_other, e28, e23, e22, e20, e16, e12, e10, e8, e4, e0, BitVec.reduceExtractLsb', BitVec.zero_or,
    BitVec.or_zero, BitVec.extractLsb'_append_eq_left, BitVec.extractLsb'_append_eq_right, List.not_mem_nil, false_implies,
    implies_true, and_self]

/-- Settles O6: the S and the D register number give the encoder the same two fields, and `size` completes the pattern. -/
theorem a2WordsAreAssembledAsWritten : Obligations.A2WordsAreAssembledAsWritten := by
  intro c vd dbit h l z
  have hS : (vd ++ dbit).extractLsb' 0 1 = dbit ∧ (vd ++ dbit).extractLsb' 1 4 = vd :=
    ⟨BitVec.extractLsb'_append_eq_right, BitVec.extractLsb'_append_eq_left⟩
  have hD : (dbit ++ vd).extractLsb' 4 1 = dbit ∧ (dbit ++ vd).extractLsb' 0 4 = vd :=
    ⟨BitVec.extractLsb'_append_eq_left, BitVec.extractLsb'_append_eq_right⟩
  refine ⟨?_, ?_, ?_, ?_⟩ <;> simp only [encodeWord, hS, hD, fpWord_eq_or] <;> rfl

/-! The relation of R81(b) between the two sets. -/

theorem simdWordT32_eq_rewritten (cmode : BitVec 4) (q op : BitVec 1) (dvd : BitVec 5) (m : BitVec 8) :
    simdWordT32 cmode q op dvd m = (simdWordA32 cmode q op dvd m &&& 0x00FFFFFF#32) ||| 0xEF000000#32 |||
      (((simdWordA32 cmode q op dvd m).extractLsb' 24 1).setWidth 32 <<< 28) := by
  obtain ⟨e24, e23, e22, e19, e16, e12, e8, e7, e6, e5, e4, e0⟩ :=
    simdLowBits_fields (0b1111001#7 ++ m.extractLsb' 7 1) cmode q op dvd m (simdWordA32 cmode q op dvd m) rfl
  obtain ⟨f24, f23, f22, f19, f16, f12, f8, f7, f6, f5, f4, f0⟩ :=
    simdLowBits_fields (0b111#3 ++ m.extractLsb' 7 1 ++ 0b1111#4) cmode q op dvd m (simdWordT32 cmode q op dvd m) rfl
  have hbit : (simdWordA32 cmode q op dvd m).extractLsb' 24 1 = m.extractLsb' 7 1 := by
    rw [← extractLsb'_of_field _ 24 8 0 1 (by decide), e24]
    exact BitVec.extractLsb'_append_eq_right
  have hbyte : ∀ i : BitVec 1, 0b111#3 ++ i ++ 0b1111#4 = 0xEF#8 ||| (i.setWidth 32 <<< 28).extractLsb' 24 8 := by decide
  rw [hbit, eq_iff_fields simdFields simdFields_cover]
  simp (disch := decide) only [simdFields, List.forall_mem_cons, BitVec.extractLsb'_or, BitVec.extractLsb'_and, e24, e23, e22, e19,
    e16, e12, e8, e7, e6, e5, e4, e0, f24, f23, f22, f19, f16, f12, f8, f7, f6, f5, f4, f0, extractLsb'_shifted_other,
    BitVec.reduceExtractLsb', BitVec.and_zero, BitVec.zero_or, BitVec.or_zero, hbyte, and_ones _ 1#1 rfl, and_ones _ 0b111#3 rfl,
    and_ones _ 0b1111#4 rfl, List.not_mem_nil, false_implies, implies_true, and_self]

theorem fpWord_eq_rewritten (top : BitVec 4) (size : BitVec 2) (dbit : BitVec 1) (vd : BitVec 4) (m : BitVec 8) :
    fpWord 0b1110#4 size dbit vd m = (fpWord top size dbit vd m &&& 0x0FFFFFFF#32) ||| 0xE0000000#32 := by
  obtain ⟨e28, e23, e22, e20, e16, e12, e10, e8, e4, e0⟩ := fpWord_fields top size dbit vd m _ rfl
  obtain ⟨f28, f23, f22, f20, f16, f12, f10, f8, f4, f0⟩ := fpWord_fields 0b1110#4 size dbit vd m _ rfl
  rw [eq_iff_fields fpFields fpFields_cover]
  simp only [fpFields, List.forall_mem_cons, BitVec.extractLsb'_or, BitVec.extractLsb'_and, e28, e23, e22, e20, e16, e12, e10, e8,
    e4, e0, f28, f23, f22, f20, f16, f12, f10, f8, f4, f0, BitVec.reduceExtractLsb', BitVec.and_zero, BitVec.zero_or,
    BitVec.or_zero, and_ones _ 1#1 rfl, and_ones _ 0b11#2 rfl, and_ones _ 0b1111#4 rfl, and_ones _ 0b11111#5 rfl,
    List.not_mem_nil, false_implies, implies_true, and_self]

/-- Settles O7, by the two formats: the rows of a pair have the same fields. -/
theorem t32PairsAreA32WordsRewritten : Obligations.T32PairsAreA32WordsRewritten := by
  refine ⟨fun c e d q h m => ?_, fun c d m z => ?_⟩
  · and_intros <;> exact simdWordT32_eq_rewritten ..
  · and_intros <;> exact fpWord_eq_rewritten ..

/-! The bytes of an instruction (R52, R53, R65). -/

/-- The two bytes of a halfword, the low one first (R53). -/
def storeHalf (h : Halfword) : List Byte := [h.extractLsb' 0 8, h.extractLsb' 8 8]

theorem layout_t32_eq_storeHalf (w : Word) :
    layout .t32 w = storeHalf (w.extractLsb' 16 16) ++ storeHalf (w.extractLsb' 0 16) := by
  simp (disch := decide) only [storeHalf, layout, extractLsb'_of_field, List.cons_append, List.nil_append]

theorem decode_ok_length {set : ISet} {bytes rest : List Byte} {i : Instr} (h : decode set bytes = .ok (i, rest)) :
    bytes.length = rest.length + 4 := by
  unfold decode at h
  split at h
  case h_1 =>
    obtain ⟨j, -, hj⟩ := exceptMap_eq_ok.mp h
    cases hj
    rfl
  case h_3 =>
    split at h
    · split at h
      · obtain ⟨j, -, hj⟩ := exceptMap_eq_ok.mp h
        cases hj
        rfl
      · cases h
    · cases h
  case h_2 | h_4 => cases h

/-- Settles O8: both layouts have four bytes, the decoder takes four or refuses, and a T32 layout is two halfwords. -/
theorem everyEncodingIsFourBytes : Obligations.EveryEncodingIsFourBytes := by
  refine ⟨fun i => Machine.layout_length _ _, fun _ _ _ _ => decode_ok_length, storeHalf, fun _ => rfl, fun i hi => ?_⟩
  rw [encode, hi, layout_t32_eq_storeHalf]

/-- Settles O10, by evaluating the decoder on the six words. -/
theorem wordsOfTheWorkedExamplesDecode : Obligations.WordsOfTheWorkedExamplesDecode := by
  unfold Obligations.WordsOfTheWorkedExamplesDecode
  decide

end Sys2Proof
end

section
/-! PROOFS. The destination and the family of a decoded word (R72, R77, R86, R89). -/

namespace Sys2Proof

open Machine

/-- The register a destination is, where it is one (R86, R89). -/
def SimdDest.asmReg : SimdDest → Option AsmReg
  | .d n => some (.d n)
  | .q n => some (.q n)
  | .undef _ => none

/-- The family of an Advanced SIMD row (R89). -/
def SimdDest.family : SimdDest → RowKind
  | .d _ | .q _ => .simd
  | .undef _ => .undefinedRow

theorem asmForm_simdA32_reg (m : BitVec 8) (k : SimdKind) (t : SimdDest) :
    (asmForm (simdA32 m k t)).map AsmForm.reg = t.asmReg := by
  cases k <;> cases t <;> rfl

theorem asmForm_simdT32_reg (m : BitVec 8) (k : SimdKind) (t : SimdDest) :
    (asmForm (simdT32 m k t)).map AsmForm.reg = t.asmReg := by
  cases k <;> cases t <;> rfl

theorem rowKind_simdA32 (m : BitVec 8) (k : SimdKind) (t : SimdDest) : rowKind (simdA32 m k t) = t.family := by
  cases k <;> cases t <;> rfl

theorem rowKind_simdT32 (m : BitVec 8) (k : SimdKind) (t : SimdDest) : rowKind (simdT32 m k t) = t.family := by
  cases k <;> cases t <;> rfl

theorem SimdDest.family_of_asmReg {t : SimdDest} {r : AsmReg} (h : t.asmReg = some r) : t.family = .simd := by
  cases t with
  | d | q => rfl
  | undef => cases h

/-- `Q == 0` names `D:Vd`; `Q == 1` names half of `D:Vd`, and only where that is even (R86, R89). -/
theorem simdDest_asmReg {q : BitVec 1} {dvd : BitVec 5} {r : AsmReg} (h : (simdDest q dvd).asmReg = some r) :
    (q = 0#1 → r = .d dvd) ∧ (q = 1#1 → dvd.toNat % 2 = 0 ∧ r = .q (BitVec.ofNat 4 (dvd.toNat / 2))) := by
  have hall : ∀ q dvd, ∀ r ∈ (simdDest q dvd).asmReg,
      (q = 0#1 → r = .d dvd) ∧ (q = 1#1 → dvd.toNat % 2 = 0 ∧ r = .q (BitVec.ofNat 4 (dvd.toNat / 2))) := by decide
  exact hall q dvd r h

theorem simdDest_family_undefined_iff (q : BitVec 1) (dvd : BitVec 5) :
    (simdDest q dvd).family = .undefinedRow ↔ q = 1#1 ∧ dvd.extractLsb' 0 1 = 1#1 := by
  revert q dvd
  decide

/-- On the bits of a word: `Q` is bit 6 and `Vd<0>` bit 12 (R66, R67). -/
theorem destField_family_undefined_iff (w : Word) :
    (destField w).family = .undefinedRow ↔ w.getLsbD 6 = true ∧ w.getLsbD 12 = true := by
  have hvd : (dvdField w).extractLsb' 0 1 = w.extractLsb' 12 1 := by
    rw [dvdField, extractLsb'_append_low _ _ _ _ (by decide), extractLsb'_of_field _ _ _ _ _ (by decide)]
  rw [destField, simdDest_family_undefined_iff, hvd, extractLsb'_one_eq_one, extractLsb'_one_eq_one]

/-- The register that an A2 or T2 word names (R86). -/
def fpReg (w : Word) : Option AsmReg :=
  if w.extractLsb' 8 2 = 0b00#2 then none
  else if w.extractLsb' 8 2 = 0b11#2 then some (.d (dvdField w))
  else some (.s (vddField w))

/-- The family of an A2 or T2 word (R72, R77, R89). -/
def fpFamily (w : Word) : RowKind :=
  if w.extractLsb' 8 2 = 0b00#2 then .undefinedRow
  else if w.extractLsb' 8 2 = 0b01#2 then .half
  else .scalar

theorem asmForm_fpA32_reg (w : Word) : (asmForm (fpA32 w)).map AsmForm.reg = fpReg w := by
  obtain ⟨h, hi⟩ | ⟨h, hi⟩ | ⟨h, hi⟩ | ⟨h, hi⟩ := fpA32_cases w <;> simp [hi, h, fpReg, asmForm, fpForm]

theorem asmForm_fpT32_reg (w : Word) : (asmForm (fpT32 w)).map AsmForm.reg = fpReg w := by
  obtain ⟨h, hi⟩ | ⟨h, hi⟩ | ⟨h, hi⟩ | ⟨h, hi⟩ := fpT32_cases w <;> simp [hi, h, fpReg, asmForm, fpForm]

theorem rowKind_fpA32 (w : Word) : rowKind (fpA32 w) = fpFamily w := by
  obtain ⟨h, hi⟩ | ⟨h, hi⟩ | ⟨h, hi⟩ | ⟨h, hi⟩ := fpA32_cases w <;> simp [hi, h, fpFamily, rowKind]

theorem rowKind_fpT32 (w : Word) : rowKind (fpT32 w) = fpFamily w := by
  obtain ⟨h, hi⟩ | ⟨h, hi⟩ | ⟨h, hi⟩ | ⟨h, hi⟩ := fpT32_cases w <;> simp [hi, h, fpFamily, rowKind]

theorem fpFamily_undefined_iff (w : Word) : fpFamily w = .undefinedRow ↔ w.extractLsb' 8 2 = 0b00#2 := by
  unfold fpFamily
  split
  · simp_all
  · split <;> simp_all

theorem fpFamily_ne_simd (w : Word) : fpFamily w ≠ .simd := by
  unfold fpFamily
  split
  · simp
  · split <;> simp

/-- A decoded word is of one of the two formats, and names its register and has its family by that format's fields. -/
theorem decodeA32_reg_family {w : Word} {i : Instr} (h : decodeA32 w = .ok i) :
    (w.getLsbD 26 = false ∧ (asmForm i).map AsmForm.reg = (destField w).asmReg ∧ rowKind i = (destField w).family) ∨
      (w.getLsbD 26 = true ∧ (asmForm i).map AsmForm.reg = fpReg w ∧ rowKind i = fpFamily w) := by
  obtain ⟨hw, k, -, rfl⟩ | ⟨hw, rfl⟩ := decodeA32_eq_ok_iff.mp h
  · exact .inl ⟨hw.bit26, asmForm_simdA32_reg _ _ _, rowKind_simdA32 _ _ _⟩
  · exact .inr ⟨isFpLow_bit26 hw.1, asmForm_fpA32_reg w, rowKind_fpA32 w⟩

theorem decodeT32_reg_family {w : Word} {i : Instr} (h : decodeT32 w = .ok i) :
    (w.getLsbD 24 = true ∧ (asmForm i).map AsmForm.reg = (destField w).asmReg ∧ rowKind i = (destField w).family) ∨
      (w.getLsbD 24 = false ∧ (asmForm i).map AsmForm.reg = fpReg w ∧ rowKind i = fpFamily w) := by
  obtain ⟨hw, k, -, rfl⟩ | ⟨hw, rfl⟩ := decodeT32_eq_ok_iff.mp h
  · exact .inl ⟨hw.bit24, asmForm_simdT32_reg _ _ _, rowKind_simdT32 _ _ _⟩
  · exact .inr ⟨isFpLow_bit24 hw.2, asmForm_fpT32_reg w, rowKind_fpT32 w⟩

theorem destField_asmReg {w : Word} {r : AsmReg} (h : (destField w).asmReg = some r) :
    (w.getLsbD 6 = false → r = .d (dvdField w)) ∧
      (w.getLsbD 6 = true → (dvdField w).toNat % 2 = 0 ∧ r = .q (BitVec.ofNat 4 ((dvdField w).toNat / 2))) := by
  rw [← extractLsb'_one_eq_zero, ← extractLsb'_one_eq_one]
  exact simdDest_asmReg h

theorem fpReg_eq_some {w : Word} {r : AsmReg} (h : fpReg w = some r) :
    (w.extractLsb' 8 2 = 0b11#2 → r = .d (dvdField w)) ∧ (w.extractLsb' 8 2 ≠ 0b11#2 → r = .s (vddField w)) := by
  unfold fpReg at h
  split at h
  case isTrue => cases h
  case isFalse =>
    split at h
    case isTrue hsize => exact ⟨fun _ => (Option.some.inj h).symm, fun hne => absurd hsize hne⟩
    case isFalse hsize => exact ⟨fun heq => absurd heq hsize, fun _ => (Option.some.inj h).symm⟩

/-- Settles O9: each format names its register by its own fields, and the family of the row tells the formats apart. -/
theorem destinationNumbersAreReadFromTheirFields : Obligations.DestinationNumbersAreReadFromTheirFields := by
  intro set w i f hdecode hform
  have hcases : ((asmForm i).map AsmForm.reg = (destField w).asmReg ∧ rowKind i = (destField w).family) ∨
      ((asmForm i).map AsmForm.reg = fpReg w ∧ rowKind i = fpFamily w) := by
    cases set with
    | a32 => exact (decodeA32_reg_family hdecode).imp And.right And.right
    | t32 => exact (decodeT32_reg_family hdecode).imp And.right And.right
  rw [hform] at hcases
  obtain ⟨hreg, hfamily⟩ | ⟨hreg, hfamily⟩ := hcases
  · rw [if_pos (hfamily.trans (SimdDest.family_of_asmReg hreg.symm))]
    exact destField_asmReg hreg.symm
  · rw [if_neg (hfamily ▸ fpFamily_ne_simd w)]
    exact fpReg_eq_some hreg.symm

/-- The words that are UNDEFINED by their encoding (R89), in A32: `Q` and `Vd<0>` in `VI-A`, `size` in `FI-A`. -/
theorem decodeA32_undefined_iff {w : Word} {i : Instr} (h : decodeA32 w = .ok i) : rowKind i = .undefinedRow ↔
    if w.getLsbD 26 = false then w.getLsbD 6 = true ∧ w.getLsbD 12 = true else w.extractLsb' 8 2 = 0b00#2 := by
  obtain ⟨hbit, -, hfamily⟩ | ⟨hbit, -, hfamily⟩ := decodeA32_reg_family h
  · rw [if_pos hbit, hfamily, destField_family_undefined_iff]
  · rw [if_neg (ne_false_of_eq_true hbit), hfamily, fpFamily_undefined_iff]

theorem decodeT32_undefined_iff {w : Word} {i : Instr} (h : decodeT32 w = .ok i) : rowKind i = .undefinedRow ↔
    if w.getLsbD 24 = true then w.getLsbD 6 = true ∧ w.getLsbD 12 = true else w.extractLsb' 8 2 = 0b00#2 := by
  obtain ⟨hbit, -, hfamily⟩ | ⟨hbit, -, hfamily⟩ := decodeT32_reg_family h
  · rw [if_pos hbit, hfamily, destField_family_undefined_iff]
  · rw [if_neg (ne_true_of_eq_false hbit), hfamily, fpFamily_undefined_iff]

end Sys2Proof
end

section
/-! PROOFS. What decode concludes and what follows from it: the UNDEFINED list, the UNPREDICTABLE refusal and the `(0)` bits
(R89 to R91, R100, R150). -/

namespace Sys2Proof.Machine

/-! What each conclusion of decode leads to (R100). -/

theorem exec_of_sbz {i : Instr} {s : State} (hp : s.preCheck = none) (hz : (sbzOf i).isClear = false) :
    exec i s = .refused .shouldBeZero := by
  rw [exec_eq_runVmov]
  simp [State.runVmov, hp, hz]

/-- The UNPREDICTABLE test of decode refuses whatever the condition is. -/
theorem exec_of_unpred {i : Instr} {s : State} (hp : s.preCheck = none) (hz : sbzOf i = .clear)
    (hv : instrVerdict i s = .unpred) : exec i s = .refused .unpredictable := by
  have hclear : SbzBits.clear.isClear = true := rfl
  rw [exec_eq_runVmov]
  simp [State.runVmov, hp, hz, hv, hclear]

/-- With the condition passed, an instruction that decode does not refuse is the checks and the write (R100 steps 4 to 8). -/
theorem exec_of_passed {i : Instr} {s : State} {c : Cond} (hp : s.preCheck = none) (hz : sbzOf i = .clear)
    (hc : currentCond i s = some c) (hpass : s.conditionPassed c = true) (hv : instrVerdict i s ≠ .unpred) :
    exec i s = s.checkAndWrite (instrVerdict i s) s.writeResult := by
  have hclear : (sbzOf i).isClear = true := by rw [hz]; rfl
  rw [exec_eq_runVmov, hc, State.runVmov_operate hp hv hclear, State.operate, if_pos hpass]

theorem exec_of_undef {i : Instr} {s : State} {c : Cond} (hp : s.preCheck = none) (hz : sbzOf i = .clear)
    (hc : currentCond i s = some c) (hpass : s.conditionPassed c = true) (hv : instrVerdict i s = .undef) :
    exec i s = .fault (.undefined s.pc) := by
  rw [exec_of_passed hp hz hc hpass (by simp [hv]), hv]
  rfl

/-! What decode concludes (R89, R150). -/

theorem State.decodeFP_eq_undef_iff (s : State) (size : FpSize) (conditional : Bool) (m : BitVec 8) (d : BitVec 5) :
    s.decodeFP size conditional m d = .undef ↔
      (s.fpscrLen ≠ 0#3 ∨ s.fpscrStride ≠ 0#2) ∨ (size = .half ∧ s.hasFP16 = false) := by
  unfold State.decodeFP
  split
  case isTrue h => simp only [h, true_or]
  case isFalse h =>
    split
    case isTrue h' => simp only [h', and_self, or_true]
    case isFalse h' =>
      simp only [h, h', or_self, iff_false]
      split <;> simp

/-- The list of R89, as a conclusion of decode. -/
theorem instrVerdict_eq_undef_iff (i : Instr) (s : State) : instrVerdict i s = .undef ↔ UndefinedByDecode i s := by
  cases i with
  | vmovF16A2 | vmovF32A2 | vmovF64A2 | vmovF16T2 | vmovF32T2 | vmovF64T2 =>
    simp [instrVerdict, UndefinedByDecode, rowKind, State.decodeFP_eq_undef_iff, or_comm]
  | undefinedA1 | undefinedA3 | undefinedA4 | undefinedA5 | undefinedA2
  | undefinedT1 | undefinedT3 | undefinedT4 | undefinedT5 | undefinedT2 =>
    simp [instrVerdict, UndefinedByDecode, rowKind]
  | _ => simp [instrVerdict, UndefinedByDecode, rowKind]

/-- The bindings of a row say whether it is an Advanced SIMD one (R87). -/
theorem instrVerdict_advsimd {i : Instr} {s : State} {b : Binding} (h : instrVerdict i s = .ok b) :
    b.advsimd = (rowKind i == .simd) := by
  cases i with
  | vmovF16A2 | vmovF32A2 | vmovF64A2 | vmovF16T2 | vmovF32T2 | vmovF64T2 =>
    rw [State.decodeFP_ok h]
    rfl
  | undefinedA1 | undefinedA3 | undefinedA4 | undefinedA5 | undefinedA2
  | undefinedT1 | undefinedT3 | undefinedT4 | undefinedT5 | undefinedT2 => cases h
  | _ =>
    cases h
    rfl

/-- An instruction of the list of R89 faults when its condition passes. -/
theorem exec_of_undefinedByDecode {i : Instr} {s : State} {c : Cond} (hp : s.preCheck = none) (hz : sbzOf i = .clear)
    (hc : currentCond i s = some c) (hpass : s.conditionPassed c = true) (h : UndefinedByDecode i s) :
    exec i s = .fault (.undefined s.pc) :=
  exec_of_undef hp hz hc hpass ((instrVerdict_eq_undef_iff i s).mpr h)

/-- An instruction outside the list of R89 does not fault where the enable check answers `Enabled`. -/
theorem exec_ne_fault {i : Instr} {s : State} {c : Cond} (hp : s.preCheck = none) (hz : sbzOf i = .clear)
    (hc : currentCond i s = some c) (hpass : s.conditionPassed c = true) (h : ¬ UndefinedByDecode i s)
    (hen : s.enableCheck (rowKind i == .simd) = some .enabled) (f : Fault) : exec i s ≠ .fault f := by
  cases hv : instrVerdict i s with
  | undef => exact absurd ((instrVerdict_eq_undef_iff i s).mp hv) h
  | unpred => simp [exec_of_unpred hp hz hv]
  | ok b =>
    rw [← instrVerdict_advsimd hv] at hen
    rw [exec_of_passed hp hz hc hpass (by simp [hv]), hv, State.checkAndWrite_enabled _ hen]
    simp

/-! The statements. -/

theorem State.conditionPassed_al (s : State) : s.conditionPassed .al = true := rfl

/-- Settles O38: on words by the two formats, on states by what decode concludes. -/
theorem undefinedEncodingsAreTheList : Obligations.UndefinedEncodingsAreTheList :=
  ⟨fun _ _ => decodeA32_undefined_iff, fun _ _ => decodeT32_undefined_iff, fun _ _ _ hp hz hc hpass =>
    ⟨exec_of_undefinedByDecode hp hz hc hpass, exec_ne_fault hp hz hc hpass⟩⟩

/-- Settles O36: these rows are in the list, and their condition is "always". -/
theorem oddQuadwordIsUndefinedInA32 : Obligations.OddQuadwordIsUndefinedInA32 := by
  intro s h m hp
  have hfault : ∀ i, rowKind i = .undefinedRow → sbzOf i = .clear → currentCond i s = some .al →
      exec i s = .fault (.undefined s.pc) :=
    fun i hrow hz hc => exec_of_undefinedByDecode hp hz hc s.conditionPassed_al (.inl hrow)
  exact ⟨fun c => hfault _ rfl rfl rfl, fun c => hfault _ rfl rfl rfl, fun c => hfault _ rfl rfl rfl, hfault _ rfl rfl rfl⟩

/-- Settles O37: these rows are in the list, whatever the state. -/
theorem undefinedRowsFaultWhenTheConditionPasses : Obligations.UndefinedRowsFaultWhenTheConditionPasses := by
  intro s h dvd m hp
  have hfault : ∀ i c, rowKind i = .undefinedRow → sbzOf i = .clear → currentCond i s = some c → s.conditionPassed c = true →
      exec i s = .fault (.undefined s.pc) :=
    fun i c hrow hz hc hpass => exec_of_undefinedByDecode hp hz hc hpass (.inl hrow)
  refine ⟨fun ⟨c, hc, hpass⟩ => ?_, fun c hpass => hfault _ c rfl rfl rfl hpass⟩
  exact ⟨fun _ => hfault _ c rfl rfl hc hpass, fun _ => hfault _ c rfl rfl hc hpass, fun _ => hfault _ c rfl rfl hc hpass,
    hfault _ c rfl rfl hc hpass, hfault _ c rfl rfl hc hpass⟩

/-- Settles O39: Len and Stride are the list's third part, for the conditional half-precision moves too. -/
theorem vectorModeMakesScalarRowsUndefined : Obligations.VectorModeMakesScalarRowsUndefined :=
  fun _ _ _ hp hmode hrow hz hc hpass => exec_of_undefinedByDecode hp hz hc hpass (.inr (.inr ⟨hrow, hmode⟩))

/-- Settles O40: FEAT_FP16 is the list's second part, and its test precedes the UNPREDICTABLE one. -/
theorem halfPrecisionWithoutTheFeatureIsUndefined : Obligations.HalfPrecisionWithoutTheFeatureIsUndefined :=
  fun _ _ _ hp hfp hrow hz hc hpass => exec_of_undefinedByDecode hp hz hc hpass (.inr (.inl ⟨hrow, hfp⟩))

theorem State.decodeFP_unpred {s : State} (hmode : s.ScalarMode) (hfp : s.hasFP16 = true) (m : BitVec 8) (d : BitVec 5) :
    s.decodeFP .half true m d = .unpred := by
  simp [State.decodeFP, hmode.len, hmode.stride, hfp]

/-- Settles O41: the tests that precede it do not fire, so decode concludes UNPREDICTABLE. -/
theorem conditionalHalfPrecisionIsUnpredictable : Obligations.ConditionalHalfPrecisionIsUnpredictable := by
  intro s d m hp hmode hfp
  refine ⟨fun c hc => exec_of_unpred hp rfl ?_, fun hblock => exec_of_unpred hp rfl ?_⟩
  · have hcond : (c != .al) = true := by simpa using hc
    rw [instrVerdict, hcond, State.decodeFP_unpred hmode hfp]
  · rw [instrVerdict, hblock, State.decodeFP_unpred hmode hfp]

/-- Settles O42: after step 0, the `(0)` bits are the first thing an instruction looks at. -/
theorem shouldBeZeroBitsAreRefused : Obligations.ShouldBeZeroBitsAreRefused := by
  intro s i hp hbit
  refine exec_of_sbz hp ?_
  obtain h | h := hbit <;> simp [SbzBits.isClear, h]

end Sys2Proof.Machine
end

section
/-! PROOFS. Templates and constants: the lanes of an Advanced SIMD constant, and the values of the floating-point constants
(R83, R85, R94, R97, R130). -/

namespace Sys2Proof.Machine

/-! The lanes of the constants (R83, R130). -/

theorem lanesAre_of_fields {w n : Nat} {v : DWord} {x : BitVec w} (hn : w * n = 64)
    (h : ∀ k < n, v.extractLsb' (w * k) w = x) : LanesAre w v x := by
  intro k hk
  rw [Nat.mul_comm k w]
  refine h k ?_
  have hle : w * (k + 1) ≤ w * n := by rw [hn, Nat.mul_comm]; exact hk
  have hpos : 0 < w := Nat.pos_of_ne_zero fun h0 => by simp [h0] at hn
  exact Nat.le_of_mul_le_mul_left hle hpos

theorem lanesAre_replicate_eight (x : BitVec 8) : LanesAre 8 (x.replicate 8) x :=
  lanesAre_of_fields rfl fun k hk => extractLsb'_replicate x 8 k hk

theorem lanesAre_replicate_four (x : BitVec 16) : LanesAre 16 (x.replicate 4) x :=
  lanesAre_of_fields rfl fun k hk => extractLsb'_replicate x 4 k hk

theorem lanesAre_replicate_two (x : BitVec 32) : LanesAre 32 (x.replicate 2) x :=
  lanesAre_of_fields rfl fun k hk => extractLsb'_replicate x 2 k hk

/-- A 64-bit lane is the whole constant. -/
theorem lanesAre_whole (v : DWord) : LanesAre 64 v v :=
  lanesAre_of_fields (n := 1) rfl fun k hk => by
    obtain rfl : k = 0 := by omega
    exact extractLsb'_whole v

/-- The constant of A1 and T1 has 32-bit lanes, whichever byte of the lane imm8 is. -/
theorem advSIMDExpandImm_lanes_i32 (c : BitVec 2) (m : BitVec 8) :
    ∃ x, LanesAre 32 (advSIMDExpandImm 0#1 (0#1 ++ c ++ 0#1) m) x := by
  obtain rfl | rfl | rfl | rfl := cases_bv2 c <;> exact ⟨_, lanesAre_replicate_two _⟩

/-- The constant of A3 and T3 has 16-bit lanes, whichever byte of the lane imm8 is. -/
theorem advSIMDExpandImm_lanes_i16 (c : BitVec 1) (m : BitVec 8) :
    ∃ x, LanesAre 16 (advSIMDExpandImm 0#1 (0b10#2 ++ c ++ 0#1) m) x := by
  obtain rfl | rfl := BitVec.eq_zero_or_eq_one c <;> exact ⟨_, lanesAre_replicate_four _⟩

/-- The ones-filled constant of A4 and T4 has 32-bit lanes, with 8 or 16 ones. -/
theorem advSIMDExpandImm_lanes_i32Ones (c : BitVec 1) (m : BitVec 8) :
    ∃ x, LanesAre 32 (advSIMDExpandImm 0#1 (0b110#3 ++ c) m) x := by
  obtain rfl | rfl := BitVec.eq_zero_or_eq_one c <;> exact ⟨_, lanesAre_replicate_two _⟩

theorem advSIMDExpandImm_lanes_i8 (m : BitVec 8) : ∃ x, LanesAre 8 (advSIMDExpandImm 0#1 0b1110#4 m) x :=
  ⟨m, lanesAre_replicate_eight m⟩

theorem advSIMDExpandImm_lanes_f32 (m : BitVec 8) : ∃ x, LanesAre 32 (advSIMDExpandImm 0#1 0b1111#4 m) x :=
  ⟨_, lanesAre_replicate_two _⟩

/-! The template (R94, R97). -/

/-- The element of a template is the lowest lane of the constant, so where the lanes are alike it is each of them. -/
theorem simdForm_lanes (set : ISet) {dt : DataType} {op : BitVec 1} {cmode : BitVec 4} (reg : AsmReg) {m : BitVec 8}
    (h : ∃ x, LanesAre dt.width (advSIMDExpandImm op cmode m) x) :
    LanesAre dt.width (advSIMDExpandImm op cmode m) ((simdForm set dt op cmode reg m).element.setWidth dt.width) := by
  obtain ⟨x, hx⟩ := h
  have hwidth : dt.width ≤ 64 := by cases dt <;> decide
  have hlow : (advSIMDExpandImm op cmode m).extractLsb' 0 dt.width = x := by simpa using hx 0 (by simpa using hwidth)
  have helement : (simdForm set dt op cmode reg m).element.setWidth dt.width = x := by
    rw [simdForm, hlow]
    simp [BitVec.setWidth_setWidth_of_le, hwidth]
  rw [helement]
  exact hx

/-- The template of an Advanced SIMD row names the lane of the constant that the row writes. -/
theorem asmForm_lanes {i : Instr} {f : AsmForm} (hrow : rowKind i = .simd) (hf : asmForm i = some f) :
    ∃ v, wholeConstant i = some v ∧ LanesAre f.dt.width v (f.element.setWidth f.dt.width) := by
  cases i with
  | vmovI32A1D c _ m | vmovI32A1Q c _ m | vmovI32T1D c _ m | vmovI32T1Q c _ m =>
    cases hf
    exact ⟨_, rfl, simdForm_lanes _ _ (advSIMDExpandImm_lanes_i32 c m)⟩
  | vmovI16A3D c _ m | vmovI16A3Q c _ m | vmovI16T3D c _ m | vmovI16T3Q c _ m =>
    cases hf
    exact ⟨_, rfl, simdForm_lanes _ _ (advSIMDExpandImm_lanes_i16 c m)⟩
  | vmovI32A4D c _ m | vmovI32A4Q c _ m | vmovI32T4D c _ m | vmovI32T4Q c _ m =>
    cases hf
    exact ⟨_, rfl, simdForm_lanes _ _ (advSIMDExpandImm_lanes_i32Ones c m)⟩
  | vmovI8A4D _ m | vmovI8A4Q _ m | vmovI8T4D _ m | vmovI8T4Q _ m =>
    cases hf
    exact ⟨_, rfl, simdForm_lanes _ _ (advSIMDExpandImm_lanes_i8 m)⟩
  | vmovF32A4D _ m | vmovF32A4Q _ m | vmovF32T4D _ m | vmovF32T4Q _ m =>
    cases hf
    exact ⟨_, rfl, simdForm_lanes _ _ (advSIMDExpandImm_lanes_f32 m)⟩
  | vmovI64A5D _ m | vmovI64A5Q _ m | vmovI64T5D _ m | vmovI64T5Q _ m =>
    cases hf
    exact ⟨_, rfl, simdForm_lanes _ _ ⟨_, lanesAre_whole _⟩⟩
  | _ => cases hrow

theorem asmForm_isSome_iff (i : Instr) : (asmForm i).isSome = true ↔ rowKind i ≠ .undefinedRow := by
  cases i with
  | undefinedA1 | undefinedA3 | undefinedA4 | undefinedA5 | undefinedA2
  | undefinedT1 | undefinedT3 | undefinedT4 | undefinedT5 | undefinedT2 => simp [asmForm, rowKind]
  | _ => simp [asmForm, rowKind]

/-- Settles O55: each register written holds the row's constant, whose lanes are the template's element. -/
theorem templateElementFillsTheRegister : Obligations.TemplateElementFillsTheRegister := by
  refine ⟨asmForm_isSome_iff, ?_⟩
  rintro i s t f n hrow hf hexec hn ⟨c, hc, hpass⟩
  obtain ⟨v, hv, hlanes⟩ := asmForm_lanes hrow hf
  rw [exec_next_constant hexec hv hn hc hpass]
  exact hlanes

/-! The floating-point constants (R85). -/

/-- `UInt(NOT(b):c:d)`, the scale that R85 gives an immediate. -/
def vfpScale (m : BitVec 8) : Nat := (~~~(m.extractLsb' 6 1) ++ m.extractLsb' 4 2).toNat

theorem vfpScale_lt (m : BitVec 8) : vfpScale m < 8 := BitVec.isLt _

theorem vfpValue128_eq (m : BitVec 8) : vfpValue128 m =
    (if m.getLsbD 7 then -1 else 1) * ((16 + (m.extractLsb' 0 4).toNat) * 2 ^ vfpScale m) := by
  simp only [vfpValue128, vfpScale]
  split <;> simp only [neg_mul, one_mul]

theorem vfpExpand_sign (e f : Nat) (m : BitVec 8) :
    (vfpExpand e f m).getLsbD ((4 + (f - 4)) + (1 + 1 * (e - 3) + 2)) = m.getLsbD 7 := by
  rw [vfpExpand, BitVec.getLsbD_append, if_neg (by omega), Nat.add_sub_cancel_left, BitVec.getLsbD_append, if_neg (by omega),
    Nat.sub_self, BitVec.getLsbD_extractLsb']
  rfl

theorem vfpExpand_exponent (e f : Nat) (m : BitVec 8) :
    (vfpExpand e f m).extractLsb' (4 + (f - 4)) (1 + 1 * (e - 3) + 2) =
      ~~~(m.extractLsb' 6 1) ++ (m.extractLsb' 6 1).replicate (e - 3) ++ m.extractLsb' 4 2 := by
  rw [vfpExpand, extractLsb'_append_high _ _ _ _ (Nat.le_refl _), Nat.sub_self]
  exact BitVec.extractLsb'_append_eq_right

theorem vfpExpand_fraction (e f : Nat) (m : BitVec 8) :
    ((vfpExpand e f m).extractLsb' 0 (4 + (f - 4))).toNat = (m.extractLsb' 0 4).toNat * 2 ^ (f - 4) := by
  rw [vfpExpand, BitVec.extractLsb'_append_eq_right]
  simp [BitVec.toNat_append, Nat.shiftLeft_eq]

/-- In each of the three formats the exponent field is the scale less 3, biased by `2^(e-1) - 1`. -/
theorem vfpExpand_exponent_toNat {e : Nat} (he : e = 5 ∨ e = 8 ∨ e = 11) (f : Nat) (m : BitVec 8) :
    ((vfpExpand e f m).extractLsb' (4 + (f - 4)) (1 + 1 * (e - 3) + 2)).toNat + 3 = (2 ^ (e - 1) - 1) + vfpScale m := by
  rw [vfpExpand_exponent, vfpScale]
  generalize m.extractLsb' 6 1 = b
  generalize m.extractLsb' 4 2 = cd
  revert b cd
  obtain rfl | rfl | rfl := he <;> decide

/-- A number with this exponent and fraction has the value of R85, both sides scaled to whole numbers. -/
theorem vfpValue128_scaled {m : BitVec 8} {bias f E F : Nat} {sign : Bool} (hf : 4 ≤ f) (hsign : sign = m.getLsbD 7)
    (hE : E + 3 = bias + vfpScale m) (hF : F = (m.extractLsb' 0 4).toNat * 2 ^ (f - 4)) :
    vfpValue128 m * 2 ^ (bias + f) = (if sign then -1 else 1) * (2 ^ f + (F : Int)) * 2 ^ E * 128 := by
  obtain ⟨g, rfl⟩ := Nat.exists_eq_add_of_le' hf
  have hpow : (2 : Int) ^ E * 2 ^ 3 = 2 ^ bias * 2 ^ vfpScale m := by rw [← pow_add, ← pow_add, hE]
  have hfrac : (2 : Int) ^ (g + 4) + F = (16 + (m.extractLsb' 0 4).toNat) * 2 ^ g := by
    rw [hF, Nat.add_sub_cancel]
    push_cast
    ring
  rw [vfpValue128_eq, hfrac, hsign, pow_add, pow_add]
  linear_combination (-16 * (if m.getLsbD 7 then -1 else 1) * (16 + ((m.extractLsb' 0 4).toNat : Int)) * 2 ^ g) * hpow

/-- Settles O33: in each format the exponent field is the scale less 3, biased, and the fraction is `efgh`. -/
theorem floatingPointConstantsDenoteTheirValues : Obligations.FloatingPointConstantsDenoteTheirValues := by
  intro m
  have hscale := vfpScale_lt m
  have half : ((vfpExpandImm16 m).extractLsb' 10 5).toNat + 3 = 15 + vfpScale m := vfpExpand_exponent_toNat (.inl rfl) 10 m
  have single : ((vfpExpandImm32 m).extractLsb' 23 8).toNat + 3 = 127 + vfpScale m :=
    vfpExpand_exponent_toNat (.inr (.inl rfl)) 23 m
  have double : ((vfpExpandImm64 m).extractLsb' 52 11).toNat + 3 = 1023 + vfpScale m :=
    vfpExpand_exponent_toNat (.inr (.inr rfl)) 52 m
  refine ⟨⟨?_, ?_, ?_⟩, ⟨?_, ?_, ?_⟩, ?_, ?_, ?_⟩
  · omega
  · omega
  · exact vfpValue128_scaled (by decide) (vfpExpand_sign 5 10 m) half (vfpExpand_fraction 5 10 m)
  · omega
  · omega
  · exact vfpValue128_scaled (by decide) (vfpExpand_sign 8 23 m) single (vfpExpand_fraction 8 23 m)
  · omega
  · omega
  · exact vfpValue128_scaled (by decide) (vfpExpand_sign 11 52 m) double (vfpExpand_fraction 11 52 m)

end Sys2Proof.Machine
end

section
/-! PROOFS. The common Operation: the condition, what a passed and a failed condition lead to, the enable check and the result
write (R100 to R111). -/

namespace Sys2Proof.Machine

/-! The condition (R101 to R104). -/

/-- The two forms of the table of R102. -/
theorem condHolds_ofBits (b : BitVec 4) (n z c v : Bool) : condHolds (Cond.ofBits b) n z c v = condHoldsByBase b n z c v := by
  revert b n z c v; decide

/-- The condition of a T32 instruction is the IT state's (R104). -/
theorem currentCond_t32 {i : Instr} (h : i.iset = .t32) (s : State) : currentCond i s = s.itCondition := by
  unfold currentCond
  split
  case h_5 => rw [h]
  all_goals cases h

theorem State.itCondition_in_block {s : State} (h : s.itState.extractLsb' 0 4 ≠ 0#4) :
    s.itCondition = some (Cond.ofBits (s.itState.extractLsb' 4 4)) := by
  simp [State.itCondition, State.inITBlock, h]

theorem State.itCondition_no_block {s : State} (h : s.itState = 0#8) : s.itCondition = some .al := by
  simp [State.itCondition, State.inITBlock, h]

/-- Settles O46: the two forms agree, the flags are the four bits of CPSR, and a T32 condition is the IT state's. -/
theorem conditionTableFormsAgree : Obligations.ConditionTableFormsAgree :=
  ⟨condHolds_ofBits, fun _ b => condHolds_ofBits b _ _ _ _, fun s _ ht32 =>
    ⟨fun hblock => (currentCond_t32 ht32 s).trans (State.itCondition_in_block hblock),
      fun hzero => (currentCond_t32 ht32 s).trans (State.itCondition_no_block hzero)⟩⟩

/-- Settles O47: the two conditions have one base test, and the lowest bit inverts it. -/
theorem neighbouringConditionsAreInverse : Obligations.NeighbouringConditionsAreInverse := by
  intro b n z c v hb
  have hodd : ((b ++ 1#1).getLsbD 0 && b ++ 1#1 != 0b1111#4) = true := by revert b; decide
  have hbase (x : BitVec 1) : (b ++ x).extractLsb' 1 3 = b :=
    (extractLsb'_append_high b x 1 3 (by decide)).trans (extractLsb'_whole b)
  have heven : (b ++ 0#1).getLsbD 0 = false := by rw [BitVec.getLsbD_append]; rfl
  simp only [condHolds_ofBits, condHoldsByBase, hbase, hodd, heven, Bool.false_and, if_true, Bool.false_eq_true, if_false]

/-! Where decode raises nothing (R105, R150). -/

/-- With Len and Stride zero decode raises nothing, but for the two tests of the half-precision rows. -/
theorem State.decodeFP_silent {s : State} {size : FpSize} {conditional : Bool} (hmode : s.ScalarMode)
    (hhalf : size = .half → s.hasFP16 = true ∧ conditional = false) (m : BitVec 8) (d : BitVec 5) :
    s.decodeFP size conditional m d = .ok (bindFP size m d) := by
  have hfp : ¬(size = .half ∧ s.hasFP16 = false) := fun ⟨hsize, h⟩ => by simp [(hhalf hsize).1] at h
  have hcond : ¬(size = .half ∧ conditional = true) := fun ⟨hsize, h⟩ => by simp [(hhalf hsize).2] at h
  simp [State.decodeFP, hmode.len, hmode.stride, hfp, hcond]

theorem sbzOf_simd {i : Instr} (h : rowKind i = .simd) : sbzOf i = .clear := by
  cases i with
  | vmovF16A2 | vmovF32A2 | vmovF64A2 | undefinedA2 | vmovF16T2 | vmovF32T2 | vmovF64T2 | undefinedT2 => cases h
  | _ => rfl

theorem instrVerdict_simd_ok {i : Instr} (h : rowKind i = .simd) (s : State) : ∃ b, instrVerdict i s = .ok b := by
  cases i with
  | vmovF16A2 | vmovF32A2 | vmovF64A2 | vmovF16T2 | vmovF32T2 | vmovF64T2
  | undefinedA1 | undefinedA3 | undefinedA4 | undefinedA5 | undefinedA2
  | undefinedT1 | undefinedT3 | undefinedT4 | undefinedT5 | undefinedT2 => cases h
  | _ => exact ⟨_, rfl⟩

theorem instrVerdict_scalar_ok {i : Instr} {s : State} (h : rowKind i = .scalar) (hmode : s.ScalarMode) :
    ∃ b, instrVerdict i s = .ok b := by
  cases i with
  | vmovF32A2 | vmovF64A2 | vmovF32T2 | vmovF64T2 => exact ⟨_, State.decodeFP_silent hmode (fun hsize => by cases hsize) _ _⟩
  | _ => cases h

/-- A half-precision row with the feature, under the condition "always" and outside an IT block. -/
theorem instrVerdict_half_ok {i : Instr} {s : State} (h : rowKind i = .half) (hmode : s.ScalarMode) (hfp : s.hasFP16 = true)
    (hc : currentCond i s = some .al) (hblock : s.inITBlock = false) : ∃ b, instrVerdict i s = .ok b := by
  cases i with
  | vmovF16A2 =>
    cases hc
    exact ⟨_, State.decodeFP_silent hmode (fun _ => ⟨hfp, rfl⟩) _ _⟩
  | vmovF16T2 => exact ⟨_, State.decodeFP_silent hmode (fun _ => ⟨hfp, hblock⟩) _ _⟩
  | _ => cases h

/-- UNPREDICTABLE is a conclusion about the half-precision rows alone (R90). -/
theorem instrVerdict_ne_unpred {i : Instr} {s : State} (h : rowKind i = .half → UndefinedByDecode i s) :
    instrVerdict i s ≠ .unpred := by
  intro hv
  have hhalf : rowKind i = .half := by
    cases i with
    | vmovF16A2 | vmovF16T2 => rfl
    | vmovF32A2 | vmovF64A2 | vmovF32T2 | vmovF64T2 =>
      simp only [instrVerdict, State.decodeFP] at hv
      split at hv <;> simp at hv
    | _ => cases hv
  rw [(instrVerdict_eq_undef_iff i s).mpr (h hhalf)] at hv
  cases hv

/-! What follows a passed and a failed condition (R100, R106 to R108). -/

/-- Where decode raises nothing, each answer of the enable check decides (R108). -/
theorem State.checkAndWrite_answers (s : State) (b : Binding) (write : Binding → State) :
    (s.enableCheck b.advsimd = some .undefined → s.checkAndWrite (.ok b) write = .fault (.undefined s.pc)) ∧
      (s.enableCheck b.advsimd = some .hypTrap → s.checkAndWrite (.ok b) write = .fault (.hypTrap s.pc)) ∧
      (s.enableCheck b.advsimd = some .enabled → s.checkAndWrite (.ok b) write = .next (write b).complete) := by
  refine ⟨fun h => ?_, fun h => ?_, State.checkAndWrite_enabled write⟩ <;> simp [State.checkAndWrite, h, raiseFault]

/-- A failed condition: the checks alone, with no write, when the draw is true; completion when it is false (R106, R107). -/
theorem State.operate_failed {s : State} {c : Cond} (hfail : s.conditionPassed c = false) (v : Verdict) :
    s.operate c v = if s.undefWhenCondFails then s.checkAndWrite v fun _ => s else .next s.complete := by
  rw [State.operate, hfail, if_neg (by decide)]
  split
  case h_1 t ht =>
    obtain ⟨b, -, -, rfl⟩ := State.checkAndWrite_next ht
    rw [ht, ite_self]
  case h_2 f hf => rw [hf]
  case h_3 r hr => rw [hr]

section
variable {i : Instr} {s : State} {c : Cond}

theorem exec_of_failed (hp : s.preCheck = none) (hz : sbzOf i = .clear) (hc : currentCond i s = some c)
    (hfail : s.conditionPassed c = false) (hv : instrVerdict i s ≠ .unpred) :
    exec i s = if s.undefWhenCondFails then s.checkAndWrite (instrVerdict i s) fun _ => s else .next s.complete := by
  have hclear : (sbzOf i).isClear = true := by rw [hz]; rfl
  rw [exec_eq_runVmov, hc, State.runVmov_operate hp hv hclear, State.operate_failed hfail]

/-- With the condition passed, decode silent and the enable check answering `Enabled`, the result is written (R109, R110). -/
theorem exec_of_enabled {b : Binding} (hready : s.Ready (rowKind i == .simd)) (hz : sbzOf i = .clear)
    (hc : currentCond i s = some c) (hpass : s.conditionPassed c = true) (hv : instrVerdict i s = .ok b) :
    exec i s = .next (s.afterStep (s.writeResult b).dregs) := by
  have hen : s.enableCheck b.advsimd = some .enabled := by rw [instrVerdict_advsimd hv]; exact hready.enabled
  rw [exec_of_passed hready.preCheck hz hc hpass (by simp [hv]), hv, State.checkAndWrite_enabled _ hen,
    State.writeResult_complete]

end

/-- Settles O43: decode concludes bindings, so the answer of the enable check is the outcome. -/
theorem enableCheckDecidesTheFault : Obligations.EnableCheckDecidesTheFault := by
  intro s i c hp hc hpass hrow
  have hz : sbzOf i = .clear := by
    obtain hsimd | ⟨hz, -⟩ := hrow
    · exact sbzOf_simd hsimd
    · exact hz
  have hok : ∃ b, instrVerdict i s = .ok b := by
    obtain hsimd | ⟨-, hmode, hscalar | ⟨hhalf, hfp, rfl, hblock⟩⟩ := hrow
    · exact instrVerdict_simd_ok hsimd s
    · exact instrVerdict_scalar_ok hscalar hmode
    · exact instrVerdict_half_ok hhalf hmode hfp hc hblock
  obtain ⟨b, hb⟩ := hok
  rw [exec_of_passed hp hz hc hpass (by simp [hb]), hb, ← instrVerdict_advsimd hb]
  obtain ⟨hundef, htrap, henabled⟩ := s.checkAndWrite_answers b s.writeResult
  exact ⟨hundef, htrap, fun h => ⟨_, henabled h⟩⟩

/-- Settles O44: decode does not refuse, and the false draw leaves completion alone. -/
theorem failedConditionWritesNothing : Obligations.FailedConditionWritesNothing := by
  intro s i c hp hz hhalf hc hfail hdraw
  rw [exec_of_failed hp hz hc hfail (instrVerdict_ne_unpred hhalf), hdraw, State.complete_eq_afterStep]
  rfl

/-- Settles O45: the true draw leaves the checks as they are when the condition passes, with the write taken away. -/
theorem failedConditionMayStillFault : Obligations.FailedConditionMayStillFault := by
  intro s i c hp hz hc hfail hdraw
  have hchecks (hv : instrVerdict i s ≠ .unpred) : exec i s = s.checkAndWrite (instrVerdict i s) fun _ => s := by
    rw [exec_of_failed hp hz hc hfail hv, if_pos hdraw]
  refine ⟨fun hundef => ?_, fun hrow => ?_⟩
  · have hv : instrVerdict i s = .undef := (instrVerdict_eq_undef_iff i s).mpr hundef
    rw [hchecks (by simp [hv]), hv]
    rfl
  · obtain ⟨b, hb⟩ : ∃ b, instrVerdict i s = .ok b := by
      obtain hsimd | ⟨hscalar, hmode⟩ := hrow
      · exact instrVerdict_simd_ok hsimd s
      · exact instrVerdict_scalar_ok hscalar hmode
    rw [hchecks (by simp [hb]), hb, ← instrVerdict_advsimd hb, ← State.complete_eq_afterStep]
    exact s.checkAndWrite_answers b fun _ => s

/-! The result write (R109, R110). -/

/-- Settles O30: decode is silent, and the write is that of one S register. -/
theorem oneSRegisterReceivesTheConstant : Obligations.OneSRegisterReceivesTheConstant := by
  intro d m s hready hmode
  have hsingle (conditional : Bool) : s.decodeFP .single conditional m d = .ok (bindFP .single m d) :=
    State.decodeFP_silent hmode (fun hsize => by cases hsize) m d
  have hhalf (hfp : s.hasFP16 = true) : s.decodeFP .half false m d = .ok (bindFP .half m d) :=
    State.decodeFP_silent hmode (fun _ => ⟨hfp, rfl⟩) m d
  rw [← s.writeResult_bindFP_half, ← s.writeResult_bindFP_single]
  refine ⟨fun hfp => ?_, fun hfp hit => ?_, fun c hpass => ?_, fun ⟨c, hc, hpass⟩ => ?_⟩
  · exact exec_of_enabled hready rfl rfl s.conditionPassed_al (hhalf hfp)
  · have hblock : s.inITBlock = false := by simp [State.inITBlock, hit]
    exact exec_of_enabled hready rfl (State.itCondition_no_block hit) s.conditionPassed_al
      (by rw [instrVerdict, hblock, hhalf hfp])
  · exact exec_of_enabled hready rfl rfl hpass (hsingle _)
  · exact exec_of_enabled hready rfl hc hpass (hsingle _)

/-- The rows that write whole D registers are the Advanced SIMD rows and VMOV.F64 (R110). -/
theorem rowKind_of_wholeConstant {i : Instr} {imm : DWord} (h : wholeConstant i = some imm) :
    rowKind i = .simd ∨ rowKind i = .scalar := by
  cases i with
  | vmovF64A2 | vmovF64T2 => exact .inr rfl
  | vmovF16A2 | vmovF32A2 | vmovF16T2 | vmovF32T2
  | undefinedA1 | undefinedA3 | undefinedA4 | undefinedA5 | undefinedA2
  | undefinedT1 | undefinedT3 | undefinedT4 | undefinedT5 | undefinedT2 => cases h
  | _ => exact .inl rfl

/-- Settles O32: decode is silent, and the write is the constant in each register the instruction may write. -/
theorem wholeDRegistersReceiveTheConstant : Obligations.WholeDRegistersReceiveTheConstant := by
  intro s i c imm hwhole hready hmode hz hc hpass
  obtain ⟨b, hb⟩ : ∃ b, instrVerdict i s = .ok b := by
    obtain hsimd | hscalar := rowKind_of_wholeConstant hwhole
    · exact instrVerdict_simd_ok hsimd s
    · exact instrVerdict_scalar_ok hscalar (hmode hscalar)
  refine ⟨_, exec_of_enabled hready hz hc hpass hb, rfl, fun n => ?_⟩
  have hread : (s.afterStep (s.writeResult b).dregs).readD n = (s.writeResult b).readD n := rfl
  rw [hread]
  have hwrites : s.WritesOnly i b := State.writesOnly_of_verdict hb
  split
  case isTrue hn => exact hwrites.constant n imm hwhole hn
  case isFalse hn => exact hwrites.other n (by simpa using hn)

end Sys2Proof.Machine
end

section
/-! PROOFS. The words of the A32 Advanced SIMD rows assembled by shifts (R71, R73 to R75, R121 to R124). -/

namespace Sys2Proof

/-- The immediate, the register `D:Vd` and nothing else, each shifted into its place (R66). -/
def simdOperands (i : BitVec 1) (imm3 : BitVec 3) (imm4 : BitVec 4) (dvd : BitVec 5) : Word :=
  (i.setWidth 32 <<< 24) ||| ((dvd >>> 4).setWidth 32 <<< 22) ||| (imm3.setWidth 32 <<< 16) |||
    ((dvd.extractLsb' 0 4).setWidth 32 <<< 12) ||| imm4.setWidth 32

/-- The word of an A32 row with every operand field zero. -/
def simdPattern (cmode : BitVec 4) (op : BitVec 1) : Word := simdWordA32 cmode 0#1 op 0#5 0#8

theorem imm8_fields (i : BitVec 1) (imm3 : BitVec 3) (imm4 : BitVec 4) :
    (i ++ imm3 ++ imm4).extractLsb' 7 1 = i ∧ (i ++ imm3 ++ imm4).extractLsb' 4 3 = imm3 ∧
      (i ++ imm3 ++ imm4).extractLsb' 0 4 = imm4 := by
  simp (disch := decide) only [extractLsb'_append_high, extractLsb'_append_low, Nat.reduceSub, extractLsb'_whole, and_self]

/-- A word of format `VI-A` is the pattern of its `cmode` and `op` with the operands and `Q` shifted into place. -/
theorem simdWordA32_eq_or (cmode : BitVec 4) (q op : BitVec 1) (dvd : BitVec 5) (i : BitVec 1) (imm3 : BitVec 3)
    (imm4 : BitVec 4) : simdWordA32 cmode q op dvd (i ++ imm3 ++ imm4) =
      simdPattern cmode op ||| (simdOperands i imm3 imm4 dvd ||| (q.setWidth 32 <<< 6)) := by
  have hdbit : (dvd >>> 4).setWidth 32 = (dvd.extractLsb' 4 1).setWidth 32 := by revert dvd; decide
  have htop : 0b1111001#7 ++ i = 0xF2#8 ||| (i.setWidth 32 <<< 24).extractLsb' 24 8 := by revert i; decide
  obtain ⟨hi, h3, h4⟩ := imm8_fields i imm3 imm4
  obtain ⟨e24, e23, e22, e19, e16, e12, e8, e7, e6, e5, e4, e0⟩ := simdLowBits_fields
    (0b1111001#7 ++ (i ++ imm3 ++ imm4).extractLsb' 7 1) cmode q op dvd (i ++ imm3 ++ imm4) (simdWordA32 cmode q op dvd _) rfl
  obtain ⟨p24, p23, p22, p19, p16, p12, p8, p7, p6, p5, p4, p0⟩ :=
    simdLowBits_fields 0xF2#8 cmode 0#1 op 0#5 0#8 (simdPattern cmode op) rfl
  have hlow : imm4.setWidth 32 = imm4.setWidth 32 <<< 0 := (BitVec.shiftLeft_zero _).symm
  rw [simdOperands, hdbit, hlow, eq_iff_fields simdFields simdFields_cover]
  simp (disch := decide) only [simdFields, List.forall_mem_cons, BitVec.extractLsb'_or, extractLsb'_shifted_same,
    extractLsb'_shifted_other, hi, h3, h4, htop, e24, e23, e22, e19, e16, e12, e8, e7, e6, e5, e4, e0, p24, p23, p22, p19, p16,
    p12, p8, p7, p6, p5, p4, p0, BitVec.reduceExtractLsb', BitVec.zero_or, BitVec.or_zero, List.not_mem_nil, false_implies,
    implies_true, and_self]

section
variable {cmode : BitVec 4} {op i : BitVec 1} {imm3 : BitVec 3} {imm4 : BitVec 4} {base free : Word}

/-- A row whose base word and free `cmode` bits make up its pattern, with `Q == 0`. -/
theorem simdWordA32_double (h : base ||| free = simdPattern cmode op) (dvd : BitVec 5) :
    simdWordA32 cmode 0#1 op dvd (i ++ imm3 ++ imm4) = base ||| simdOperands i imm3 imm4 dvd ||| free := by
  have hq : (0#1).setWidth 32 <<< 6 = 0#32 := rfl
  rw [simdWordA32_eq_or, hq, BitVec.or_zero, ← h]
  ac_rfl

/-- A row whose base word and free `cmode` bits make up its pattern, with `Q == 1`. -/
theorem simdWordA32_quad (h : base ||| free = simdPattern cmode op) (dvd : BitVec 5) :
    simdWordA32 cmode 1#1 op dvd (i ++ imm3 ++ imm4) =
      base ||| (simdOperands i imm3 imm4 dvd ||| (1#32 <<< 6)) ||| free := by
  have hq : (1#1).setWidth 32 = 1#32 := rfl
  rw [simdWordA32_eq_or, hq, ← h]
  ac_rfl

end

/-- Settles O5: each base word with its free `cmode` bits is the pattern of its rows, whatever `Q` and the operands are. -/
theorem a32SimdWordsAreAssembledAsWritten : Obligations.A32SimdWordsAreAssembledAsWritten := by
  intro c e d q h i imm3 imm4
  have hA1 : 0xF2800010#32 ||| (c.setWidth 32 <<< 9) = simdPattern (0#1 ++ c ++ 0#1) 0#1 := by revert c; decide
  have hA3 : 0xF2800810#32 ||| (e.setWidth 32 <<< 9) = simdPattern (0b10#2 ++ e ++ 0#1) 0#1 := by revert e; decide
  have hA4 : 0xF2800C10#32 ||| (c.setWidth 32 <<< 8) = simdPattern (0b11#2 ++ c) 0#1 := by revert c; decide
  have hOnes : 0xF2800C10#32 ||| (e.setWidth 32 <<< 8) = simdPattern (0b110#3 ++ e) 0#1 := by revert e; decide
  have hI8 : 0xF2800C10#32 ||| (2#32 <<< 8) = simdPattern 0b1110#4 0#1 := rfl
  have hF32 : 0xF2800C10#32 ||| (3#32 <<< 8) = simdPattern 0b1111#4 0#1 := rfl
  have hA5 (q : BitVec 1) (dvd : BitVec 5) : simdWordA32 0b1110#4 q 1#1 dvd (i ++ imm3 ++ imm4) =
      0xF2800E30#32 ||| (simdOperands i imm3 imm4 dvd ||| (q.setWidth 32 <<< 6)) := simdWordA32_eq_or ..
  refine ⟨⟨simdWordA32_double hA1 d, simdWordA32_double hA3 d, simdWordA32_double hOnes d, simdWordA32_double hI8 d,
      simdWordA32_double hF32 d, (hA5 0#1 d).trans ?_⟩,
    ⟨simdWordA32_quad hA1 _, simdWordA32_quad hA3 _, simdWordA32_quad hOnes _, simdWordA32_quad hI8 _,
      simdWordA32_quad hF32 _, hA5 1#1 _⟩,
    ⟨simdWordA32_quad hA1 _, simdWordA32_quad hA3 _, simdWordA32_quad hA4 _, hA5 1#1 _⟩⟩
  exact congrArg (0xF2800E30#32 ||| ·) BitVec.or_zero

end Sys2Proof
end

section
/-! PROOFS. The results of the Advanced SIMD rows: the lanes of each constant, and the registers that receive it (R83, R85, R110,
R121 to R128). -/

namespace Sys2Proof.Machine

/-! The lanes of the constants (R83, R85). -/

/-- A concatenation is the high part shifted over the low part. -/
theorem append_eq_shiftLeft_or {n k : Nat} (x : BitVec n) (y : BitVec k) :
    x ++ y = (x.setWidth (n + k) <<< k) ||| y.setWidth (n + k) := by
  rw [BitVec.append_def, BitVec.shiftLeftZeroExtend_eq, BitVec.setWidth'_eq]

theorem append_zeros {n : Nat} (x : BitVec n) (k : Nat) : x ++ 0#k = x.setWidth (n + k) <<< k := by
  rw [append_eq_shiftLeft_or, BitVec.setWidth_zero, BitVec.or_zero]

theorem zeros_append {n : Nat} (k : Nat) (x : BitVec n) : 0#k ++ x = x.setWidth (k + n) := by
  rw [append_eq_shiftLeft_or, BitVec.setWidth_zero, BitVec.zero_shiftLeft, BitVec.zero_or]

theorem zeros_append_append {n l : Nat} (k : Nat) (x : BitVec n) (y : BitVec l) :
    0#k ++ x ++ y = (x.setWidth (k + n + l) <<< l) ||| y.setWidth (k + n + l) := by
  rw [append_eq_shiftLeft_or, zeros_append, BitVec.setWidth_setWidth (by omega)]

/-- The two groupings of the fields of a floating-point constant (R83, R85). -/
theorem append_regroup {n1 n2 n3 n4 n5 n6 : Nat} (x1 : BitVec n1) (x2 : BitVec n2) (x3 : BitVec n3) (x4 : BitVec n4)
    (x5 : BitVec n5) (x6 : BitVec n6) :
    (x1 ++ x2 ++ x3 ++ (x4 ++ x5) ++ x6).toNat = (x1 ++ (x2 ++ x3 ++ x4) ++ (x5 ++ x6)).toNat := by
  simp only [BitVec.toNat_append, Nat.shiftLeft_or_distrib, ← Nat.shiftLeft_add, Nat.or_assoc]
  simp only [Nat.add_assoc]

/-- A lane that the expansion writes as a concatenation, read as a shifted value. -/
theorem LanesAre.congr {w : Nat} {v : DWord} {x y : BitVec w} (h : LanesAre w v x) (e : x = y) : LanesAre w v y := e ▸ h

/-- The constant of A1 and T1: imm8 shifted by 0, 8, 16 or 24 in each 32-bit lane. -/
theorem lanesAre_i32_shifted (c : BitVec 2) (m : BitVec 8) :
    LanesAre 32 (advSIMDExpandImm 0#1 (0#1 ++ c ++ 0#1) m) (m.setWidth 32 <<< (8 * c.toNat)) := by
  obtain rfl | rfl | rfl | rfl := cases_bv2 c
  · exact (lanesAre_replicate_two _).congr ((zeros_append 24 m).trans (BitVec.shiftLeft_zero _).symm)
  · exact (lanesAre_replicate_two _).congr ((zeros_append_append 16 m 0#8).trans BitVec.or_zero)
  · exact (lanesAre_replicate_two _).congr ((zeros_append_append 8 m 0#16).trans BitVec.or_zero)
  · exact (lanesAre_replicate_two _).congr (append_zeros m 24)

/-- The constant of A3 and T3: imm8 shifted by 0 or 8 in each 16-bit lane. -/
theorem lanesAre_i16_shifted (c : BitVec 1) (m : BitVec 8) :
    LanesAre 16 (advSIMDExpandImm 0#1 (0b10#2 ++ c ++ 0#1) m) (m.setWidth 16 <<< (8 * c.toNat)) := by
  obtain rfl | rfl := BitVec.eq_zero_or_eq_one c
  · exact (lanesAre_replicate_four _).congr ((zeros_append 8 m).trans (BitVec.shiftLeft_zero _).symm)
  · exact (lanesAre_replicate_four _).congr (append_zeros m 8)

/-- The ones-filled constant of A4 and T4: imm8 above 8 or 16 ones in each 32-bit lane. -/
theorem lanesAre_i32_ones (c : BitVec 1) (m : BitVec 8) :
    LanesAre 32 (advSIMDExpandImm 0#1 (0b110#3 ++ c) m)
      (if c = 0#1 then (m.setWidth 32 <<< 8) ||| 0xFF#32 else (m.setWidth 32 <<< 16) ||| 0xFFFF#32) := by
  obtain rfl | rfl := BitVec.eq_zero_or_eq_one c
  · exact (lanesAre_replicate_two _).congr (zeros_append_append 16 m (BitVec.allOnes 8))
  · exact (lanesAre_replicate_two _).congr (zeros_append_append 8 m (BitVec.allOnes 16))

/-- The floating-point constant of A4 and T4 is `VFPExpandImm(imm8, 32)` in each lane (R85). -/
theorem lanesAre_f32 (m : BitVec 8) : LanesAre 32 (advSIMDExpandImm 0#1 0b1111#4 m) (vfpExpandImm32 m) := by
  refine (lanesAre_replicate_two _).congr (BitVec.eq_of_toNat_eq ?_)
  rw [vfpExpandImm32, vfpExpand, ← extractLsb'_join m 0 2 4]
  exact append_regroup ..

/-- Bit `k` of imm8 eight times (R83). -/
def bitByte (m : BitVec 8) (k : Nat) : BitVec 8 := (m.extractLsb' k 1).replicate 8

theorem bitByte_eq (m : BitVec 8) (k : Nat) : bitByte m k = if m.getLsbD k then 0xFF#8 else 0x00#8 := by
  have hreplicate : ∀ b : BitVec 1, b.replicate 8 = if b.getLsbD 0 then 0xFF#8 else 0x00#8 := by decide
  have hbit : (m.extractLsb' k 1).getLsbD 0 = m.getLsbD k := by simp
  rw [bitByte, hreplicate, hbit]

/-- The constant of A5 and T5: eight ones or eight zeros for each bit of imm8. -/
theorem advSIMDExpandImm_i64_byte (m : BitVec 8) {k : Nat} (hk : k < 8) :
    (advSIMDExpandImm 1#1 0b1110#4 m).extractLsb' (8 * k) 8 = if m.getLsbD k then 0xFF#8 else 0x00#8 := by
  have hbytes : advSIMDExpandImm 1#1 0b1110#4 m = bitByte m 7 ++ bitByte m 6 ++ bitByte m 5 ++ bitByte m 4 ++ bitByte m 3 ++
      bitByte m 2 ++ bitByte m 1 ++ bitByte m 0 := rfl
  rw [← bitByte_eq, hbytes]
  interval_cases k
  all_goals
    simp (disch := decide) only [extractLsb'_append_low, extractLsb'_append_high]
    exact extractLsb'_whole _

/-! The registers that receive the constant (R110). -/

/-- What an Advanced SIMD row runs with in the state `s`: the current condition `c` and the bindings `b` of its decode (R87,
R103, R104). -/
structure State.RunsSimd (s : State) (i : Instr) (c : Cond) (b : Binding) : Prop where
  kind : rowKind i = .simd
  cond : currentCond i s = some c
  verdict : instrVerdict i s = .ok b

theorem exec_of_runsSimd {s : State} {i : Instr} {c : Cond} {b : Binding} (hready : s.Ready true)
    (hpass : s.conditionPassed c = true) (hrun : s.RunsSimd i c b) :
    exec i s = .next (s.afterStep (s.writeResult b).dregs) :=
  exec_of_enabled (by rwa [hrun.kind]) (sbzOf_simd hrun.kind) hrun.cond hpass hrun.verdict

/-- The two rows of an encoding, `Q == 0` and `Q == 1`, in a ready state whose current condition holds: the D register, or both
halves of the Q register, receive the constant that decode expanded. -/
theorem exec_simd_pair {s : State} {c : Cond} {rowD : DReg → Instr} {rowQ : QReg → Instr} {op : BitVec 1} {cmode : BitVec 4}
    {m : BitVec 8} (hready : s.Ready true) (hpass : s.conditionPassed c = true)
    (hD : ∀ d, s.RunsSimd (rowD d) c (bindD op cmode m d)) (hQ : ∀ q, s.RunsSimd (rowQ q) c (bindQ op cmode m q)) :
    (∀ d, exec (rowD d) s = .next (s.afterStep (s.dregsWith (· == d.toNat) (advSIMDExpandImm op cmode m)))) ∧
      ∀ q, exec (rowQ q) s = .next (s.afterStep (s.dregsWith (· / 2 == q.toNat) (advSIMDExpandImm op cmode m))) :=
  ⟨fun d => by rw [exec_of_runsSimd hready hpass (hD d), State.writeResult_bindD],
    fun q => by rw [exec_of_runsSimd hready hpass (hQ q), State.writeResult_bindQ]⟩

/-- Settles O22: the condition is "always", and the lanes are the shifted byte. -/
theorem a1WritesShiftedBytesIn32BitLanes : Obligations.A1WritesShiftedBytesIn32BitLanes := fun c m s hready =>
  ⟨_, lanesAre_i32_shifted c m,
    exec_simd_pair hready s.conditionPassed_al (fun _ => ⟨rfl, rfl, rfl⟩) fun _ => ⟨rfl, rfl, rfl⟩⟩

/-- Settles O23: as O22, with 16-bit lanes. -/
theorem a3WritesShiftedBytesIn16BitLanes : Obligations.A3WritesShiftedBytesIn16BitLanes := fun c m s hready =>
  ⟨_, lanesAre_i16_shifted c m,
    exec_simd_pair hready s.conditionPassed_al (fun _ => ⟨rfl, rfl, rfl⟩) fun _ => ⟨rfl, rfl, rfl⟩⟩

/-- Settles O24: the condition is "always", and each pair of rows has its own lanes. -/
theorem a4WritesOnesFilledByteOrSingleLanes : Obligations.A4WritesOnesFilledByteOrSingleLanes := by
  intro m s hready
  refine ⟨fun c => ⟨_, lanesAre_i32_ones c m, ?_⟩, ⟨_, lanesAre_replicate_eight m, ?_⟩, ⟨_, lanesAre_f32 m, ?_⟩⟩
  · exact exec_simd_pair hready s.conditionPassed_al (fun _ => ⟨rfl, rfl, rfl⟩) fun _ => ⟨rfl, rfl, rfl⟩
  · exact exec_simd_pair (op := 0#1) (cmode := 0b1110#4) hready s.conditionPassed_al (fun _ => ⟨rfl, rfl, rfl⟩)
      fun _ => ⟨rfl, rfl, rfl⟩
  · exact exec_simd_pair hready s.conditionPassed_al (fun _ => ⟨rfl, rfl, rfl⟩) fun _ => ⟨rfl, rfl, rfl⟩

/-- Settles O25: the condition is "always", and each byte of the constant is one bit of imm8. -/
theorem a5WritesOneByteForEachImmediateBit : Obligations.A5WritesOneByteForEachImmediateBit := fun m s hready =>
  ⟨_, fun _ => advSIMDExpandImm_i64_byte m,
    exec_simd_pair hready s.conditionPassed_al (fun _ => ⟨rfl, rfl, rfl⟩) fun _ => ⟨rfl, rfl, rfl⟩⟩

/-- Settles O26: as O22, under the condition of the IT state. -/
theorem t1WritesShiftedBytesIn32BitLanes : Obligations.T1WritesShiftedBytesIn32BitLanes := fun c m _ hready ⟨_, hc, hpass⟩ =>
  ⟨_, lanesAre_i32_shifted c m, exec_simd_pair hready hpass (fun _ => ⟨rfl, hc, rfl⟩) fun _ => ⟨rfl, hc, rfl⟩⟩

/-- Settles O27: as O23, under the condition of the IT state. -/
theorem t3WritesShiftedBytesIn16BitLanes : Obligations.T3WritesShiftedBytesIn16BitLanes := fun c m _ hready ⟨_, hc, hpass⟩ =>
  ⟨_, lanesAre_i16_shifted c m, exec_simd_pair hready hpass (fun _ => ⟨rfl, hc, rfl⟩) fun _ => ⟨rfl, hc, rfl⟩⟩

/-- Settles O28: as O24, under the condition of the IT state. -/
theorem t4WritesOnesFilledByteOrSingleLanes : Obligations.T4WritesOnesFilledByteOrSingleLanes := by
  rintro m s hready ⟨cond, hc, hpass⟩
  refine ⟨fun c => ⟨_, lanesAre_i32_ones c m, ?_⟩, ⟨_, lanesAre_replicate_eight m, ?_⟩, ⟨_, lanesAre_f32 m, ?_⟩⟩
  · exact exec_simd_pair hready hpass (fun _ => ⟨rfl, hc, rfl⟩) fun _ => ⟨rfl, hc, rfl⟩
  · exact exec_simd_pair (op := 0#1) (cmode := 0b1110#4) hready hpass (fun _ => ⟨rfl, hc, rfl⟩)
      fun _ => ⟨rfl, hc, rfl⟩
  · exact exec_simd_pair hready hpass (fun _ => ⟨rfl, hc, rfl⟩) fun _ => ⟨rfl, hc, rfl⟩

/-- Settles O29: as O25, under the condition of the IT state. -/
theorem t5WritesOneByteForEachImmediateBit : Obligations.T5WritesOneByteForEachImmediateBit := fun m _ hready ⟨_, hc, hpass⟩ =>
  ⟨_, fun _ => advSIMDExpandImm_i64_byte m, exec_simd_pair hready hpass (fun _ => ⟨rfl, hc, rfl⟩) fun _ => ⟨rfl, hc, rfl⟩⟩

end Sys2Proof.Machine
end

section
/-! PROOFS. The result of the double-precision rows of VMOV (R110, R153, R156). -/

namespace Sys2Proof.Machine

/-- Settles O31: decode is silent under either condition, and the write is that of one D register. -/
theorem doublePrecisionMoveWritesOneD : Obligations.DoublePrecisionMoveWritesOneD := by
  intro d m s hready hmode
  have hdouble (conditional : Bool) : s.decodeFP .double conditional m d = .ok (bindFP .double m d) :=
    State.decodeFP_silent hmode (fun hsize => by cases hsize) m d
  rw [← s.writeResult_bindFP_double]
  refine ⟨fun c hpass => ?a2, fun ⟨c, hc, hpass⟩ => ?t2⟩
  case a2 => exact exec_of_enabled hready rfl rfl hpass (hdouble _)
  case t2 => exact exec_of_enabled hready rfl hc hpass (hdouble _)

end Sys2Proof.Machine
end

section
/-! PROOFS. The state after reset, and a step from a state with no program text at `pc` (R29, R57, R200; log 12, log 22). -/

namespace Sys2Proof.Machine

/-- Of the three tests of step 0, the invariant leaves only the wrap of `pc` open (R29, R32). -/
theorem State.WellFormed.preCheck_none {s : State} (h : s.WellFormed) (hwrap : s.pcWraps = false) : s.preCheck = none := by
  simp [State.preCheck, h.aligned, hwrap, h.itState]

/-- In either set, the byte at `pc` itself is the first that the fetch misses (R51, R52, R57). -/
theorem step_of_no_text_at_pc {s : State} (hp : s.preCheck = none) (hmissing : s.mem.read s.pc.toNat = none) :
    step s = .refused (.noProgramText s.pc) := by
  have hfetch : s.fetch = .error (.noProgramText (s.pc + BitVec.ofNat 32 0)) :=
    State.fetch_missing hp (by decide) (.inr (.inl (by decide))) (fun _ hj => absurd hj (Nat.not_lt_zero _)) hmissing
  rw [step_of_fetch_error hp hfetch, BitVec.add_zero]

/-- The reset values: `pc` zero, A32 state with ITSTATE zero, Supervisor mode, and no byte of memory listed. -/
theorem State.reset_wellFormed : State.reset.WellFormed where
  aligned := by decide
  itState := by decide
  legalMode := by decide
  memory := reset_mem_wf

theorem State.reset_mem_read (a : Nat) : State.reset.mem.read a = none := rfl

/-- Settles O16: the reset state passes step 0, being well-formed with `pc` at zero, and its empty memory stops the fetch. -/
theorem resetIsWellFormedAndHoldsNoProgram : Obligations.ResetIsWellFormedAndHoldsNoProgram :=
  have hpre : State.reset.preCheck = none := State.reset_wellFormed.preCheck_none (by decide)
  ⟨State.reset_wellFormed, step_of_no_text_at_pc hpre (State.reset_mem_read _)⟩

end Sys2Proof.Machine
end

section
/-! PROOFS. The architected entries that the model holds for orientation: what each saves, writes and leaves (R174, R179; log 2,
log 29). No step calls them (R178). -/

namespace Sys2Proof.Machine

/-- Words that agree on a field agree on each bit of it; where the field is the topmost, on each bit from its lowest up. -/
theorem getLsbD_eq_of_field_eq {w v : Word} {start len k : Nat} (h : w.extractLsb' start len = v.extractLsb' start len)
    (hlow : start ≤ k) (hhigh : k < 32 → k < start + len) : w.getLsbD k = v.getLsbD k := by
  obtain hin | hout := Nat.lt_or_ge k 32
  · have hk : k - start < len := by have := hhigh hin; omega
    simpa [hk, Nat.add_sub_cancel' hlow] using getLsbD_of_field h hk
  · rw [BitVec.getLsbD_of_ge _ _ hout, BitVec.getLsbD_of_ge _ _ hout]

/-- No two modes share an encoding, so the mode is the one whose encoding CPSR.M holds (R182). -/
theorem State.mode_of_modeBits {s : State} {m : Mode} (h : s.modeBits = m.bits) : s.mode = some m := by
  rw [State.mode, h]
  cases m <;> decide

/-! The entry to Undefined mode (R179). -/

/-- The fields of CPSR from bit 31 down to M: those that the entry writes and those that it copies. -/
theorem undefinedEntryCpsr_fields {w cpsr sctlr : Word} (h : w = undefinedEntryCpsr cpsr sctlr) :
    w.extractLsb' 27 5 = cpsr.extractLsb' 27 5 ∧ w.extractLsb' 25 2 = 0#2 ∧ w.extractLsb' 16 9 = cpsr.extractLsb' 16 9 ∧
      w.extractLsb' 10 6 = 0#6 ∧ w.extractLsb' 9 1 = sctlr.extractLsb' 25 1 ∧ w.extractLsb' 8 1 = cpsr.extractLsb' 8 1 ∧
      w.extractLsb' 7 1 = 1#1 ∧ w.extractLsb' 6 1 = cpsr.extractLsb' 6 1 ∧ w.extractLsb' 5 1 = sctlr.extractLsb' 30 1 ∧
      w.extractLsb' 0 5 = Mode.undefined.bits := by
  subst h
  simp (disch := decide) only [undefinedEntryCpsr, extractLsb'_append_high, extractLsb'_append_low, Nat.reduceSub,
    extractLsb'_whole, and_self]

/-- Of CPSR the entry copies bits 6 and 8, and those on both sides of ITSTATE's low field. -/
theorem undefinedEntryCpsr_getLsbD (cpsr sctlr : Word) {k : Nat} (h : k = 6 ∨ k = 8 ∨ 16 ≤ k ∧ k < 25 ∨ 27 ≤ k) :
    (undefinedEntryCpsr cpsr sctlr).getLsbD k = cpsr.getLsbD k := by
  obtain ⟨h27, -, h16, -, -, h8, -, h6, -, -⟩ := undefinedEntryCpsr_fields (cpsr := cpsr) (sctlr := sctlr) rfl
  obtain rfl | rfl | ⟨hlow, hhigh⟩ | hlow := h
  · exact getLsbD_eq_of_field_eq h6 (by decide) (by decide)
  · exact getLsbD_eq_of_field_eq h8 (by decide) (by decide)
  · exact getLsbD_eq_of_field_eq h16 hlow fun _ => hhigh
  · exact getLsbD_eq_of_field_eq h27 hlow id

theorem State.undefinedEntry_cpsr (s : State) : s.undefinedEntry.cpsr = undefinedEntryCpsr s.cpsr s.sctlr := rfl

/-- The return address is past an A32 instruction, or past the first halfword of a T32 one. -/
theorem State.undefinedEntry_lrUnd (s : State) :
    s.undefinedEntry.lrUnd = s.pc + (if s.iset = .a32 then 4#32 else 2#32) := by
  rw [State.undefinedEntry]
  cases s.iset <;> rfl

theorem State.undefinedEntry_mode (s : State) : s.undefinedEntry.mode = some .undefined := by
  obtain ⟨-, -, -, -, -, -, -, -, -, hm⟩ := undefinedEntryCpsr_fields s.undefinedEntry_cpsr
  exact State.mode_of_modeBits hm

theorem State.undefinedEntry_itState (s : State) : s.undefinedEntry.itState = 0#8 := by
  obtain ⟨-, hlow, -, hhigh, -⟩ := undefinedEntryCpsr_fields s.undefinedEntry_cpsr
  rw [State.itState, hhigh, hlow]
  decide

/-- I is set; T and E are TE and EE of SCTLR. -/
theorem State.undefinedEntry_controlBits (s : State) : s.undefinedEntry.cpsr.getLsbD 7 = true ∧
    s.undefinedEntry.thumb = s.sctlr.getLsbD 30 ∧ s.undefinedEntry.cpsr.getLsbD 9 = s.sctlr.getLsbD 25 := by
  obtain ⟨-, -, -, -, he, -, hi, -, ht, -⟩ := undefinedEntryCpsr_fields s.undefinedEntry_cpsr
  exact ⟨getLsbD_of_field hi (k := 0) (by decide), by simpa [State.thumb] using getLsbD_of_field ht (k := 0) (by decide),
    by simpa using getLsbD_of_field he (k := 0) (by decide)⟩

/-! The Hyp Trap entry (R174, R179). -/

theorem State.hypTrapEntry_cpsr (s : State) (c : Cond) :
    (s.hypTrapEntry c).cpsr = s.cpsr.extractLsb' 5 27 ++ Mode.hyp.bits := rfl

theorem State.hypTrapEntry_hsr (s : State) (c : Cond) :
    (s.hypTrapEntry c).hsr = hypTrapSyndrome c (Config.hsrUnnamed s.drawsTaken) := rfl

theorem State.hypTrapEntry_mode (s : State) (c : Cond) : (s.hypTrapEntry c).mode = some .hyp := by
  refine State.mode_of_modeBits ?_
  rw [State.modeBits, State.hypTrapEntry_cpsr, extractLsb'_append_low _ _ _ _ (by decide), extractLsb'_whole]

/-- Of CPSR the Hyp Trap entry writes the mode field alone. -/
theorem State.hypTrapEntry_getLsbD (s : State) (c : Cond) {k : Nat} (h : 5 ≤ k) :
    (s.hypTrapEntry c).cpsr.getLsbD k = s.cpsr.getLsbD k := by
  have hfield : (s.hypTrapEntry c).cpsr.extractLsb' 5 27 = s.cpsr.extractLsb' 5 27 := by
    rw [State.hypTrapEntry_cpsr, extractLsb'_append_high _ _ _ _ (by decide)]
    exact extractLsb'_whole _
  exact getLsbD_eq_of_field_eq hfield h id

/-- EC, CV and COND of HSR, whatever the bits that R174 does not name. -/
theorem hypTrapSyndrome_fields {w free : Word} {c : Cond} (h : w = hypTrapSyndrome c free) :
    w.extractLsb' 26 6 = 0x07#6 ∧ w.extractLsb' 24 1 = 1#1 ∧ w.extractLsb' 20 4 = c.toBits := by
  subst h
  simp (disch := decide) only [hypTrapSyndrome, extractLsb'_append_high, extractLsb'_append_low, Nat.reduceSub,
    extractLsb'_whole, and_self]

/-- Settles O54, entry by entry from the fields of the CPSR and of the HSR written; what is saved, the new `pc` and the frame are
the record updates themselves. -/
theorem architectedEntriesSaveAndRedirect : Obligations.ArchitectedEntriesSaveAndRedirect := by
  intro s c
  obtain ⟨hi, ht, he⟩ := s.undefinedEntry_controlBits
  obtain ⟨hec, hcv, hcond⟩ := hypTrapSyndrome_fields (s.hypTrapEntry_hsr c)
  have hcvCond : (s.hypTrapEntry c).hsr.extractLsb' 20 5 = 1#1 ++ c.toBits := by
    rw [← hcv, ← hcond]
    exact (extractLsb'_join _ 20 1 4).symm
  exact ⟨⟨rfl, s.undefinedEntry_lrUnd, s.undefinedEntry_mode, s.undefinedEntry_itState, hi, ht, he,
      fun _ => undefinedEntryCpsr_getLsbD _ _, rfl⟩,
    rfl, rfl, s.hypTrapEntry_mode c, fun _ => s.hypTrapEntry_getLsbD c, hec, hcvCond, rfl, rfl, rfl, rfl, rfl, rfl, rfl⟩

end Sys2Proof.Machine
end
